-- ==== Sys2Proof/Word.lean ====
section
/-! DEFINITION. The word types of the block (00_scope.md R8, R10). -/

namespace Sys2Proof

/-- A byte (R10). -/
abbrev Byte := BitVec 8

/-- A 16-bit value: the checksum, an identifier, a sequence number (R8). -/
abbrev Half := BitVec 16

/-- A register, a bus datum, a command word (R8). -/
abbrev Word := BitVec 32

/-- A block byte address `addr[16:0]` (R8). -/
abbrev Addr := BitVec 17

end Sys2Proof
end

