-- ==== Sys2Proof/Config.lean ====
section
/-! DEFINITION. What this hardware fixes (00_scope.md R6, R7, R9) and the free values. -/

namespace Sys2Proof.Config

/-- `BUF_BYTES`, the value taken by this hardware (00_scope.md R6; log entry 9). -/
def bufBytes : Nat := 65536

/-- `PAT_MAX`, the value taken by this hardware (00_scope.md R7; log entry 9). -/
def patMax : Nat := 16

/-- How many pattern registers PAT<j> there are: `PAT_MAX / 4` (10_state.md R35). -/
def patRegs : Nat := patMax / 4

/-- The constant of the ID register, the ASCII codes of "ICMP" (10_state.md R24). -/
def idWord : Word := 0x49434D50#32

/-- Free value: which 0x20000-byte slot of the platform's space holds the block
(60_exceptions.md R153; log entry 10). -/
opaque baseIndex : Nat

/-- `BASE`, aligned to 0x20000 as 60_exceptions.md R153 says; left open by 00_scope.md R9. -/
def base : Nat := baseIndex * 0x20000

/-- Free value: `freeByte e i` is what buffer byte `i` holds after the reset numbered `e` while nothing
has written it (70_reset_and_hazards.md R161, 42_host_bus.md R138; log entry 4). -/
opaque freeByte : Nat → Nat → Byte

end Sys2Proof.Config
end

