-- ==== Sys2Proof/Syntax.lean ====
section
/-! DEFINITION. The instructions: one constructor per row of spec/opcode_table.json, and the two forms in which
the block meets an instruction (a command word, a bus request). -/

namespace Sys2Proof

/-- The eleven rows of the opcode table. A command carries no operand in its word (30_encoding.md R90); a bus
transaction carries a block address and, for a write, its datum (20_memory.md R64). -/
inductive Instr where
  | cksum
  | build4
  | build6
  | echo4
  | echo6
  | rd8 (addr : Addr)
  | rd16 (addr : Addr)
  | rd32 (addr : Addr)
  | wr8 (addr : Addr) (wdata : Word)
  | wr16 (addr : Addr) (wdata : Word)
  | wr32 (addr : Addr) (wdata : Word)
  deriving DecidableEq, Repr

/-- A request on the host port: `req_we`, `req_size`, `req_addr`, `req_wdata` (20_memory.md R63). -/
structure Request where
  we : Bool
  size : BitVec 2
  addr : Addr
  wdata : Word
  deriving DecidableEq, Repr

/-- An encoded instruction: a command word (30_encoding.md R85) or a bus request (30_encoding.md R93). -/
inductive Encoded where
  | cmd (w : Word)
  | bus (r : Request)
  deriving DecidableEq, Repr

end Sys2Proof
end

