-- ==== Sys2Proof/Machine/State.lean ====
section
/-! DEFINITION. The state of the block (10_state.md R20), as plain data, and its value after reset
(70_reset_and_hazards.md R160). -/

namespace Sys2Proof.Machine

/-- The command error codes of 60_exceptions.md R140; the values 7 to 15 are never produced
(93_implementation_defined.md I8). -/
inductive ErrCode where
  | noError
  | argument
  | invalidLength
  | illegalCmd
  | lengthRange
  | patternEmpty
  | patternRange
  deriving DecidableEq, Repr

/-- The response to a transaction: `rsp_err` and `rsp_rdata` (20_memory.md R63). -/
structure Response where
  err : Bool
  rdata : Word
  deriving DecidableEq, Repr

/-- One point of the total order of 20_memory.md R77: a host transaction, a moment at which the engine may
take its completion step, or a reset (70_reset_and_hazards.md R160). Clock and handshake are below this level
(log entry 13). -/
inductive Event where
  | host (r : Request)
  | engine
  | reset
  deriving DecidableEq, Repr

/-- The block. A register keeps its live bits only; reserved fields read 0 (30_encoding.md R92). BUSY, ERR, irq and
the constant registers are computed (log entry 6). -/
@[ext]
structure State where
  /-- CTRL.IE (10_state.md R27). -/
  ie : Bool
  /-- STATUS.DONE (10_state.md R28). -/
  done : Bool
  /-- STATUS.OVR (10_state.md R28). -/
  ovr : Bool
  /-- STATUS.ERRCODE (10_state.md R28). -/
  err : ErrCode
  /-- LEN (10_state.md R30). -/
  len : Word
  /-- OFFSET (10_state.md R31). -/
  offset : Word
  /-- TYPECODE.TYPE (10_state.md R32). -/
  msgType : Byte
  /-- TYPECODE.CODE (10_state.md R32). -/
  msgCode : Byte
  /-- IDSEQ.ID (10_state.md R33). -/
  ident : Half
  /-- IDSEQ.SEQ (10_state.md R33). -/
  seq : Half
  /-- PATLEN (10_state.md R34). -/
  patLen : Word
  /-- PAT0, PAT1, … (10_state.md R35). -/
  pat : Vector Word Config.patRegs
  /-- CK (10_state.md R37). -/
  ck : Half
  /-- ACC (10_state.md R38). -/
  acc : Word
  /-- RAWLEN (10_state.md R39). -/
  rawLen : Word
  /-- The pending command: idle, or pending w (10_state.md R41). -/
  pending : Option Word
  /-- The bytes of BUF written since reset, by buffer index, rising (20_memory.md R61; log entry 4). -/
  buf : List Host.Cell
  /-- The model's own: how many resets have happened; keys the free bytes (log entry 4). -/
  epoch : Nat
  /-- The response of the most recent transaction, none before the first (log entry 5). -/
  rsp : Option Response
  /-- The model's own: the rest of the total order of 20_memory.md R77 (log entry 1). -/
  events : List Event
  deriving DecidableEq, Repr

/-- The block has no condition on which it stops (60_exceptions.md: an error is a completion with ERRCODE or an error
response), so nothing raises a fault: safe. -/
inductive Fault where
  deriving DecidableEq, Repr

/-- Why the model gives an instruction no meaning. -/
inductive Refusal where
  /-- Raised by an arm of exec for an instruction not modelled yet (none is left): safe. -/
  | notModelled (mnemonic : String)
  deriving DecidableEq, Repr

/-- The block right after reset (70_reset_and_hazards.md R160), with no transaction waiting. -/
def State.reset : State :=
  { ie := false
    done := false
    ovr := false
    err := .noError
    len := 0
    offset := 0
    msgType := 0
    msgCode := 0
    ident := 0
    seq := 0
    patLen := 0
    pat := Vector.replicate Config.patRegs 0
    ck := 0
    acc := 0
    rawLen := 0
    pending := none
    buf := []
    epoch := 0
    rsp := none
    events := [] }

end Sys2Proof.Machine
end

