-- ==== Sys2Proof/Machine/Flags.lean ====
section
/-! DEFINITION. STATUS, the block's flags (10_state.md R28, R44; the block has no condition codes), and irq (R43). -/

namespace Sys2Proof.Machine

/-- The value of ERRCODE (60_exceptions.md R140). -/
def ErrCode.code : ErrCode → BitVec 4
  | .noError => 0
  | .argument => 1
  | .invalidLength => 2
  | .illegalCmd => 3
  | .lengthRange => 4
  | .patternEmpty => 5
  | .patternRange => 6

/-- STATUS.BUSY: 1 exactly when a command is pending (10_state.md R41). -/
def State.busy (s : State) : Bool := s.pending.isSome

/-- STATUS.ERR: always (ERRCODE ≠ 0) (10_state.md R28). -/
def State.errBit (s : State) : Bool := s.err.code != 0

/-- The STATUS word: `ERRCODE << 4 | OVR << 3 | ERR << 2 | DONE << 1 | BUSY` (42_host_bus.md R136). -/
def State.statusWord (s : State) : Word :=
  0#24 ++ s.err.code ++ BitVec.ofBool s.ovr ++ BitVec.ofBool s.errBit ++ BitVec.ofBool s.done ++ BitVec.ofBool s.busy

/-- A host write of STATUS: bit 1 clears DONE, bit 3 clears OVR, the other bits are ignored (10_state.md R28). It is
also the acknowledgement of a completion, the return from an error (60_exceptions.md R150). -/
def State.writeStatus (v : Word) (s : State) : State :=
  { s with done := s.done && !v.getLsbD 1, ovr := s.ovr && !v.getLsbD 3 }

/-- The interrupt output, a level: `CTRL.IE & STATUS.DONE` (10_state.md R43). -/
def State.irq (s : State) : Bool := s.ie && s.done

end Sys2Proof.Machine
end

