-- ==== Sys2Proof/Machine/Operands.lean ====
section
/-! DEFINITION. Operand forms: the classification of a bus access (42_host_bus.md R125), the registers it can name
(10_state.md R23), and the operands each command assembles (30_encoding.md R87 to R89). -/

namespace Sys2Proof.Machine

/-- The registers of 10_state.md R23; `unlisted` is any offset of the window the map does not list. -/
inductive Reg where
  | id
  | bufsz
  | patmax
  | ctrl
  | status
  | cmd
  | len
  | offset
  | typecode
  | idseq
  | patlen
  | ck
  | acc
  | rawlen
  | pat (j : Fin Config.patRegs)
  | unlisted
  deriving DecidableEq, Repr

/-- What an access addresses (42_host_bus.md R125). -/
inductive Target where
  | bad
  | reg (r : Reg)
  | buf (i : Nat)
  deriving DecidableEq, Repr

/-- PAT<j> at offset 0x040 + 4j, and the unlisted offsets beside them (10_state.md R23, R35; 42_host_bus.md R137). -/
def patternRegAt (o : Nat) : Reg :=
  if h : 0x040 ≤ o ∧ (o - 0x040) / 4 < Config.patRegs then .pat ⟨(o - 0x040) / 4, h.2⟩ else .unlisted

/-- The registers below the pattern registers, by offset (10_state.md R23). -/
def regMap : List (Nat × Reg) :=
  [(0x000, .id), (0x004, .bufsz), (0x008, .patmax), (0x00C, .ctrl), (0x010, .status), (0x014, .cmd), (0x018, .len)] ++
  [(0x01C, .offset), (0x020, .typecode), (0x024, .idseq), (0x028, .patlen), (0x02C, .ck), (0x030, .acc), (0x034, .rawlen)]

/-- The register at a 4-aligned offset of the register window (10_state.md R23, 42_host_bus.md R137). -/
def regAt (o : Nat) : Reg :=
  match regMap.lookup o with
  | some r => r
  | none => patternRegAt o

/-- DECODE(we, n, addr) of 42_host_bus.md R125; `we` decides nothing. -/
def classify (n : Nat) (addr : Addr) : Target :=
  if n ≠ 1 ∧ n ≠ 2 ∧ n ≠ 4 then .bad
  else if addr.toNat ≤ 0x00FFF then
    if n ≠ 4 ∨ addr.toNat % 4 ≠ 0 then .bad else .reg (regAt addr.toNat)
  else if 0x10000 ≤ addr.toNat ∧ addr.toNat < 0x10000 + Config.bufBytes then
    if addr.toNat % n ≠ 0 then .bad else .buf (addr.toNat - 0x10000)
  else .bad

/-- LOCKED(o): the registers a host may not write while BUSY = 1 (42_host_bus.md R127, R134). -/
def Reg.locked : Reg → Bool
  | .cmd | .len | .offset | .typecode | .idseq | .patlen | .pat _ => true
  | .id | .bufsz | .patmax | .ctrl | .status | .ck | .acc | .rawlen | .unlisted => false

/-- The block address of a platform address, where it falls in the block's 0x20000 bytes at `BASE`
(60_exceptions.md R153). -/
def blockAddress (a : Nat) : Option Addr :=
  if Config.base ≤ a ∧ a < Config.base + 0x20000 then some (BitVec.ofNat 17 (a - Config.base)) else none

/-- Byte `i` of a value, bits [8i+7:8i] (00_scope.md R10). -/
def byteOf {w : Nat} (v : BitVec w) (i : Nat) : Byte := v.extractLsb' (8 * i) 8

/-- PATTERN[i]: byte i of the pattern store, little-endian in PAT<i/4> (10_state.md R35). -/
def State.patternByte (s : State) (i : Nat) : Byte := byteOf (s.pat[i / 4]?.getD 0) (i % 4)

/-- CKSUM's operands (30_encoding.md R87). -/
structure CksumOperands where
  n : Nat
  off : Nat
  deriving DecidableEq, Repr

/-- `n = reg[LEN]`, `off = reg[OFFSET]`, as unbounded numbers (30_encoding.md R87). -/
def State.cksumOperands (s : State) : CksumOperands := ⟨s.len.toNat, s.offset.toNat⟩

/-- The operands of BUILD4 and BUILD6 (30_encoding.md R88). -/
structure BuildOperands where
  plen : Nat
  type : Byte
  code : Byte
  deriving DecidableEq, Repr

/-- `plen = reg[LEN]`, type and code the fields of TYPECODE (30_encoding.md R88). -/
def State.buildOperands (s : State) : BuildOperands := ⟨s.len.toNat, s.msgType, s.msgCode⟩

/-- The operands of ECHO4 and ECHO6 (30_encoding.md R89). -/
structure EchoOperands where
  len : Nat
  ident : Half
  seq : Half
  patLen : Nat
  deriving DecidableEq, Repr

/-- `L = reg[LEN]`, id and seq the fields of IDSEQ, `k = reg[PATLEN]` (30_encoding.md R89). -/
def State.echoOperands (s : State) : EchoOperands := ⟨s.len.toNat, s.ident, s.seq, s.patLen.toNat⟩

end Sys2Proof.Machine
end

