-- ==== Sys2Proof/Machine/Ops.lean ====
section
/-! DEFINITION. The shared operations over the buffer, the registers, the response port and the command life cycle. -/

namespace Sys2Proof.Machine

/-! The packet buffer: a canonical list of the bytes written since reset. -/

/-- The byte written at index `i`, none while nothing has written it: an unlisted index reads as no value. -/
def Buf.get : List Host.Cell → Nat → Option Byte
  | [], _ => none
  | (a, v) :: t, i => if i = a then some v else Buf.get t i

/-- `BUF[i] <- b`, keeping the indices rising. -/
def Buf.set : List Host.Cell → Nat → Byte → List Host.Cell
  | [], i, b => [(i, b)]
  | (a, v) :: t, i, b =>
    if i < a then (i, b) :: (a, v) :: t
    else if i = a then (i, b) :: t
    else (a, v) :: Buf.set t i b

/-- The canonical form from index `lo` on: indices strictly rising and inside the buffer. -/
def Buf.wfFrom : Nat → List Host.Cell → Bool
  | _, [] => true
  | lo, (a, _) :: t => decide (lo ≤ a) && decide (a < Config.bufBytes) && Buf.wfFrom (a + 1) t

/-- The canonical form of the buffer. -/
def Memory.wf (m : List Host.Cell) : Bool := Buf.wfFrom 0 m

/-- `BUF[i]` (20_memory.md R61): the byte written last, or, while nothing has written it since reset, the free value drawn
at that reset (42_host_bus.md R138). -/
def State.byte (s : State) (i : Nat) : Byte := (Buf.get s.buf i).getD (Config.freeByte s.epoch i)

/-- `BUF[i] <- b` (00_scope.md R12). -/
def State.setByte (i : Nat) (b : Byte) (s : State) : State := { s with buf := Buf.set s.buf i b }

/-- `Σ_{t<n} BUF[i+t] << 8t` (20_memory.md R68). -/
def State.readLE (s : State) (i : Nat) : Nat → Nat
  | 0 => 0
  | n + 1 => s.readLE i n + (s.byte (i + n)).toNat <<< (8 * n)

/-- `BUF[i+t] <- v[8t+7:8t]` for t in 0..n-1 (20_memory.md R68). -/
def State.writeLE (i : Nat) (v : Word) : Nat → State → State
  | 0, s => s
  | n + 1, s => (State.writeLE i v n s).setByte (i + n) (byteOf v n)

/-! The response port (20_memory.md R63). -/

/-- An OK response with a read value (0 for a write). -/
def State.respond (v : Word) (s : State) : State := { s with rsp := some ⟨false, v⟩ }

/-- `busErr`: an error response with `rdata = 0` and no other effect (60_exceptions.md R143). -/
def State.busErr (s : State) : State := { s with rsp := some ⟨true, 0⟩ }

/-- A transaction refused by the BUSY lock: error response and OVR (42_host_bus.md R127). -/
def State.refuse (s : State) : State := { s with ovr := true, rsp := some ⟨true, 0⟩ }

/-! The registers (42_host_bus.md R135, R136). -/

/-- REGREAD(o) (42_host_bus.md R136). -/
def regRead (r : Reg) (s : State) : Word :=
  match r with
  | .id => Config.idWord
  | .bufsz => BitVec.ofNat 32 Config.bufBytes
  | .patmax => BitVec.ofNat 32 Config.patMax
  | .ctrl => (BitVec.ofBool s.ie).setWidth 32
  | .status => s.statusWord
  | .cmd => 0
  | .len => s.len
  | .offset => s.offset
  | .typecode => 0#16 ++ s.msgCode ++ s.msgType
  | .idseq => s.seq ++ s.ident
  | .patlen => s.patLen
  | .ck => s.ck.setWidth 32
  | .acc => s.acc
  | .rawlen => s.rawLen
  | .pat j => s.pat[j]
  | .unlisted => 0

/-- ISSUE(v): the command becomes pending, DONE and ERRCODE are cleared (42_host_bus.md R133). -/
def State.issue (v : Word) (s : State) : State := { s with pending := some v, done := false, err := .noError }

/-- REGWRITE(o, v) (42_host_bus.md R135), and the issue for CMD (R133). -/
def regWrite (r : Reg) (v : Word) (s : State) : State :=
  match r with
  | .id => s
  | .bufsz => s
  | .patmax => s
  | .ctrl => { s with ie := v.getLsbD 0 }
  | .status => s.writeStatus v
  | .cmd => s.issue v
  | .len => { s with len := v }
  | .offset => { s with offset := v }
  | .typecode => { s with msgType := byteOf v 0, msgCode := byteOf v 1 }
  | .idseq => { s with ident := v.extractLsb' 0 16, seq := v.extractLsb' 16 16 }
  | .patlen => { s with patLen := v }
  | .ck => s
  | .acc => s
  | .rawlen => s
  | .pat j => { s with pat := s.pat.set j v }
  | .unlisted => s

/-! The end of a command (60_exceptions.md R145). -/

/-- Error entry, the block's one way of taking an exception: ERRCODE names the cause, RAWLEN <- 0, DONE <- 1,
BUSY <- 0; nothing else changes (60_exceptions.md R145, R149, R144). The way back from it is the write of
STATUS (`State.writeStatus`) or the next issue (R150). -/
def State.raiseError (e : ErrCode) (s : State) : State :=
  { s with err := e, rawLen := 0, done := true, pending := none }

/-- A successful completion (60_exceptions.md R145). -/
def State.finish (s : State) : State := { s with err := .noError, done := true, pending := none }

/-- The completion of a command begun in `s`: with the state its rule made, or with an error and none of its
effect (60_exceptions.md R145). -/
def State.complete (s : State) (result : Except ErrCode State) : State :=
  match result with
  | .ok t => t.finish
  | .error e => s.raiseError e

/-! Reset (70_reset_and_hazards.md R160, R161). -/

/-- The reset event: every register takes its reset value, the pending command is abandoned, the buffer's bytes are
drawn anew; the rest of the total order still stands (70_reset_and_hazards.md R160, R161). -/
def State.resetEvent (s : State) : State := { State.reset with epoch := s.epoch + 1, events := s.events }

end Sys2Proof.Machine
end

