-- ==== Sys2Proof/Machine/Checksum.lean ====
section
/-! DEFINITION. The one's-complement accumulator and CKSUM (40_checksum.md). -/

namespace Sys2Proof.Machine

/-- W(k): the little-endian word at bytes 2k and 2k+1 (40_checksum.md R100). -/
def wordAt (rd : Nat → Byte) (k : Nat) : Nat := (rd (2 * k + 1) ++ rd (2 * k) : BitVec 16).toNat

/-- The sum of the first `m` words (40_checksum.md R101). -/
def sumWords (rd : Nat → Byte) : Nat → Nat
  | 0 => 0
  | m + 1 => sumWords rd m + wordAt rd m

/-- The sum of bytes 0 to n-1 as little-endian words; a trailing byte of an odd range is the low byte of a final
word (40_checksum.md R100, R101). -/
def sumBytes (rd : Nat → Byte) (n : Nat) : Nat :=
  sumWords rd (n / 2) + if n % 2 = 1 then (rd (n - 1)).toNat else 0

/-- ACC32(n): the unsigned 32-bit accumulation (40_checksum.md R101; log entry 11). -/
def acc32 (rd : Nat → Byte) (n : Nat) : Word := BitVec.ofNat 32 (sumBytes rd n)

/-- At most `fuel` rounds of the loop of 40_checksum.md R102. -/
def foldLoop : Nat → Nat → Nat
  | 0, s => s
  | fuel + 1, s => if s > 0xFFFF then foldLoop fuel ((s &&& 0xFFFF) + (s >>> 16)) else s

/-- FOLD16(acc): a 32-bit sum is folded after at most two rounds (40_checksum.md R102, R107). -/
def fold16 (acc : Word) : Nat := foldLoop 2 acc.toNat

/-- `ck = 0xFFFF - FOLD16(acc)` (40_checksum.md R102). -/
def checksumOf (acc : Word) : Half := BitVec.ofNat 16 (0xFFFF - fold16 acc)

/-- `BUF[off] <- 0; BUF[off+1] <- 0` (40_checksum.md R103). -/
def State.zeroField (off : Nat) (s : State) : State := (s.setByte off 0).setByte (off + 1) 0

/-- `BUF[off] <- ck[7:0]; BUF[off+1] <- ck[15:8]` (40_checksum.md R103, 20_memory.md R66). -/
def State.storeField (off : Nat) (ck : Half) (s : State) : State :=
  (s.setByte off (byteOf ck 0)).setByte (off + 1) (byteOf ck 1)

/-- The part of 40_checksum.md R103 after its checks: zero the field, sum, store the checksum, set CK, ACC and RAWLEN. -/
def State.insertChecksum (n off : Nat) (s : State) : State :=
  let a := acc32 (s.zeroField off).byte n
  { s.storeField off (checksumOf a) with ck := checksumOf a, acc := a, rawLen := BitVec.ofNat 32 n }

/-- The checks of CKSUM in their order (40_checksum.md R103, 60_exceptions.md R141). -/
def cksumCheck (o : CksumOperands) : Option ErrCode :=
  if o.n < 2 ∨ o.off + 2 > o.n then some .argument
  else if o.n > Config.bufBytes then some .lengthRange
  else none

/-- CKSUM's pseudocode (40_checksum.md R103). -/
def State.cksum (s : State) : Except ErrCode State :=
  match cksumCheck s.cksumOperands with
  | some e => .error e
  | none => .ok (s.insertChecksum s.cksumOperands.n s.cksumOperands.off)

/-- CKSUM: its completion step (40_checksum.md R103, 20_memory.md R76). -/
def execCksum (s : State) : Host.Outcome State Fault Refusal := .next (s.complete s.cksum)

end Sys2Proof.Machine
end

