-- ==== Sys2Proof/Machine/Builder.lean ====
section
/-! DEFINITION. The packet builder: BUILD4, BUILD6, ECHO4, ECHO6 (41_builder.md). -/

namespace Sys2Proof.Machine

/-- BUILD_CORE(type, code, plen) (41_builder.md R110): the header in front of the payload at BUF[4], then
R103 with n = 4 + plen and off = 2. -/
def State.buildCore (type code : Byte) (plen : Nat) (s : State) : Except ErrCode State :=
  if plen > Config.bufBytes - 4 then .error .lengthRange
  else .ok (((s.setByte 0 type).setByte 1 code).insertChecksum (4 + plen) 2)

/-- The checks of ECHO_BODY in their order (41_builder.md R117, 60_exceptions.md R141). -/
def echoCheck (o : EchoOperands) : Option ErrCode :=
  if o.len < 8 then some .invalidLength
  else if o.len > Config.bufBytes then some .lengthRange
  else if o.len > 8 ∧ o.patLen = 0 then some .patternEmpty
  else if o.len > 8 ∧ o.patLen > Config.patMax then some .patternRange
  else none

/-- The first `m` bytes of the filler: `BUF[8 + i] <- PATTERN[i mod k]` (41_builder.md R117). -/
def State.fill (k : Nat) : Nat → State → State
  | 0, s => s
  | m + 1, s => (State.fill k m s).setByte (8 + m) (s.patternByte (m % k))

/-- Identifier and sequence number, big-endian, at BUF[4..7] (41_builder.md R117, 20_memory.md R67). -/
def State.putIdSeq (ident seq : Half) (s : State) : State :=
  (((s.setByte 4 (byteOf ident 1)).setByte 5 (byteOf ident 0)).setByte 6 (byteOf seq 1)).setByte 7 (byteOf seq 0)

/-- ECHO_BODY(L, id, seq, k) (41_builder.md R117). -/
def State.echoBody (o : EchoOperands) (s : State) : Except ErrCode State :=
  match echoCheck o with
  | some e => .error e
  | none => .ok ((s.putIdSeq o.ident o.seq).fill o.patLen (o.len - 8))

/-- ECHO_BODY, then BUILD_CORE with the family's type and code 0 (41_builder.md R114 to R117). -/
def State.echo (type : Byte) (s : State) : Except ErrCode State :=
  match s.echoBody s.echoOperands with
  | .error e => .error e
  | .ok t => t.buildCore type 0 (s.echoOperands.len - 4)

/-- BUILD4 (41_builder.md R113). -/
def execBuild4 (s : State) : Host.Outcome State Fault Refusal :=
  .next (s.complete (s.buildCore s.buildOperands.type s.buildOperands.code s.buildOperands.plen))

/-- BUILD6, the same operation (41_builder.md R119). -/
def execBuild6 (s : State) : Host.Outcome State Fault Refusal :=
  .next (s.complete (s.buildCore s.buildOperands.type s.buildOperands.code s.buildOperands.plen))

/-- ECHO4: type 8 (41_builder.md R114, R116). -/
def execEcho4 (s : State) : Host.Outcome State Fault Refusal := .next (s.complete (s.echo 8))

/-- ECHO6: type 128 (41_builder.md R115, R116). -/
def execEcho6 (s : State) : Host.Outcome State Fault Refusal := .next (s.complete (s.echo 128))

end Sys2Proof.Machine
end

