-- ==== Sys2Proof/Machine/HostBus.lean ====
section
/-! DEFINITION. The host bus transactions RD8, RD16, RD32, WR8, WR16, WR32 (42_host_bus.md). -/

namespace Sys2Proof.Machine

/-- An n-byte read (42_host_bus.md R128 to R130): a register read is never locked and never changes a register. -/
def busRead (n : Nat) (addr : Addr) (s : State) : State :=
  match classify n addr with
  | .bad => s.busErr
  | .reg r => s.respond (regRead r s)
  | .buf i => if s.busy then s.refuse else s.respond (BitVec.ofNat 32 (s.readLE i n))

/-- An n-byte write (42_host_bus.md R131, R132, R134); a write of CMD is the issue (R133). -/
def busWrite (n : Nat) (addr : Addr) (v : Word) (s : State) : State :=
  match classify n addr with
  | .bad => s.busErr
  | .reg r => if s.busy && r.locked then s.refuse else (regWrite r v s).respond 0
  | .buf i => if s.busy then s.refuse else (State.writeLE i v n s).respond 0

/-- RD8 (42_host_bus.md R128). -/
def execRd8 (addr : Addr) (s : State) : Host.Outcome State Fault Refusal := .next (busRead 1 addr s)

/-- RD16 (42_host_bus.md R129). -/
def execRd16 (addr : Addr) (s : State) : Host.Outcome State Fault Refusal := .next (busRead 2 addr s)

/-- RD32 (42_host_bus.md R130). -/
def execRd32 (addr : Addr) (s : State) : Host.Outcome State Fault Refusal := .next (busRead 4 addr s)

/-- WR8 (42_host_bus.md R131). -/
def execWr8 (addr : Addr) (wdata : Word) (s : State) : Host.Outcome State Fault Refusal :=
  .next (busWrite 1 addr wdata s)

/-- WR16 (42_host_bus.md R132). -/
def execWr16 (addr : Addr) (wdata : Word) (s : State) : Host.Outcome State Fault Refusal :=
  .next (busWrite 2 addr wdata s)

/-- WR32 (42_host_bus.md R134). -/
def execWr32 (addr : Addr) (wdata : Word) (s : State) : Host.Outcome State Fault Refusal :=
  .next (busWrite 4 addr wdata s)

end Sys2Proof.Machine
end

