-- ==== Sys2Proof/Machine/Dispatch.lean ====
section
/-! DEFINITION. One arm per instruction. -/

namespace Sys2Proof.Machine

def exec (i : Instr) (s : State) : Host.Outcome State Fault Refusal :=
  match i with
  | .cksum => Sys2Proof.Machine.execCksum s
  | .build4 => Sys2Proof.Machine.execBuild4 s
  | .build6 => Sys2Proof.Machine.execBuild6 s
  | .echo4 => Sys2Proof.Machine.execEcho4 s
  | .echo6 => Sys2Proof.Machine.execEcho6 s
  | .rd8 addr => Sys2Proof.Machine.execRd8 addr s
  | .rd16 addr => Sys2Proof.Machine.execRd16 addr s
  | .rd32 addr => Sys2Proof.Machine.execRd32 addr s
  | .wr8 addr wdata => Sys2Proof.Machine.execWr8 addr wdata s
  | .wr16 addr wdata => Sys2Proof.Machine.execWr16 addr wdata s
  | .wr32 addr wdata => Sys2Proof.Machine.execWr32 addr wdata s

end Sys2Proof.Machine
end

