-- ==== Sys2Proof/WellFormed.lean ====
section
/-! DEFINITION. Which instructions are well-formed: an n-byte write carries a value below 2^(8n)
(20_memory.md R64). Every other operand is bounded by its type. -/

namespace Sys2Proof

/-- `MemWrite(addr, n, v)` has `v < 2^(8n)` (20_memory.md R64). -/
def Instr.WellFormed : Instr → Bool
  | .cksum => true
  | .build4 => true
  | .build6 => true
  | .echo4 => true
  | .echo6 => true
  | .rd8 _ => true
  | .rd16 _ => true
  | .rd32 _ => true
  | .wr8 _ v => decide (v.toNat < 2 ^ 8)
  | .wr16 _ v => decide (v.toNat < 2 ^ 16)
  | .wr32 _ _ => true

end Sys2Proof
end

