-- ==== Sys2Proof/Decode.lean ====
section
/-! DEFINITION. Decoding of command words (30_encoding.md R86, R98) and of bus requests (30_encoding.md R93),
total, rejecting by name; then the encoder, written from the field tables (R85, R93). -/

namespace Sys2Proof

/-- Why an encoding is no instruction. -/
inductive Reject where
  /-- A command word outside the table of 30_encoding.md R86; it completes with ILLEGAL_CMD (R91). -/
  | illegalCmd (w : Word)
  /-- `req_size = 11` (30_encoding.md R93); the request gets an error response. -/
  | reservedSize
  deriving DecidableEq, Repr

/-- The decode of a command word: an exact match of all 32 bits (30_encoding.md R86). -/
def decodeCmd (w : Word) : Except Reject Instr :=
  if w = 0x00000001#32 then .ok .cksum
  else if w = 0x00000002#32 then .ok .build4
  else if w = 0x00000012#32 then .ok .build6
  else if w = 0x00000003#32 then .ok .echo4
  else if w = 0x00000013#32 then .ok .echo6
  else .error (.illegalCmd w)

/-- The low `8n` bits of a write datum, which an n-byte write uses (20_memory.md R63). -/
def lowBytes (n : Nat) (v : Word) : Word := (v.setWidth (8 * n)).setWidth 32

/-- The decode of a bus request by the pair `(req_we, req_size)` (30_encoding.md R93). -/
def decodeBus (r : Request) : Except Reject Instr :=
  if r.size = 0b00#2 then .ok (if r.we then .wr8 r.addr (lowBytes 1 r.wdata) else .rd8 r.addr)
  else if r.size = 0b01#2 then .ok (if r.we then .wr16 r.addr (lowBytes 2 r.wdata) else .rd16 r.addr)
  else if r.size = 0b10#2 then .ok (if r.we then .wr32 r.addr r.wdata else .rd32 r.addr)
  else .error .reservedSize

/-- The decoder: of a command word or of a bus request (30_encoding.md R98). -/
def decode : Encoded → Except Reject Instr
  | .cmd w => decodeCmd w
  | .bus r => decodeBus r

/-- A command word from its fields: RSV [31:5] = 0, FAM [4], OP [3:0] (30_encoding.md R85). -/
def cmdWord (fam : BitVec 1) (op : BitVec 4) : Word := 0#27 ++ fam ++ op

/-- The encoder: the fields of 30_encoding.md R85 and R86, and the descriptor of R93. A read puts 0 on
`req_wdata`, which a read does not use. -/
def encode : Instr → Encoded
  | .cksum => .cmd (cmdWord 0#1 0x1#4)
  | .build4 => .cmd (cmdWord 0#1 0x2#4)
  | .build6 => .cmd (cmdWord 1#1 0x2#4)
  | .echo4 => .cmd (cmdWord 0#1 0x3#4)
  | .echo6 => .cmd (cmdWord 1#1 0x3#4)
  | .rd8 a => .bus ⟨false, 0b00#2, a, 0#32⟩
  | .rd16 a => .bus ⟨false, 0b01#2, a, 0#32⟩
  | .rd32 a => .bus ⟨false, 0b10#2, a, 0#32⟩
  | .wr8 a v => .bus ⟨true, 0b00#2, a, v⟩
  | .wr16 a v => .bus ⟨true, 0b01#2, a, v⟩
  | .wr32 a v => .bus ⟨true, 0b10#2, a, v⟩

/-- A bus request laid out as one number (DESIGN CHOICE, log entry 7: the spec gives the three descriptor bits of
30_encoding.md R98 and no place for the operands): bit 2 `req_we`, bits 1..0 `req_size`, then 17 bits of
address and 32 bits of datum. -/
def requestOfBits (w : Nat) : Request :=
  { we := w.testBit 2
    size := BitVec.ofNat 2 w
    addr := BitVec.ofNat 17 (w / 2 ^ 3)
    wdata := BitVec.ofNat 32 (w / 2 ^ 20) }

/-- The encoding an opcode-table word stands for: a row of 32 bits is a command word, any other row a bus
request (log entry 7). The bits at and above `nbits` are 0. -/
def encodedOfTable (nbits w : Nat) : Encoded :=
  if nbits = 32 then .cmd (BitVec.ofNat 32 w) else .bus (requestOfBits (w % 2 ^ nbits))

/-- What the decoder reads from a word numbered as the opcode table numbers it. -/
def decodeTableWord (nbits w : Nat) : Option Instr :=
  match decode (encodedOfTable nbits w) with
  | .ok i => some i
  | .error _ => none

end Sys2Proof
end

