-- ==== Sys2Proof/Machine/Fetch.lean ====
section
/-! DEFINITION. Which agent moves next and what it does (20_memory.md R76, R77): the block fetches nothing
(R81); an instruction comes from a host request or from the pending command word. -/

namespace Sys2Proof.Machine

/-- What the next move is: an instruction to run, or a move that is no instruction and its result. -/
inductive Fetched where
  | run (i : Instr) (s : State)
  | settled (s : State)
  deriving DecidableEq, Repr

/-- The engine's completion step: enabled when a command is pending (20_memory.md R76); a word that selects no command
completes with ILLEGAL_CMD (60_exceptions.md R142). With nothing pending it is no step (log entry 3). -/
def fetchEngine (s : State) : Fetched :=
  match s.pending with
  | none => .settled s
  | some w =>
    match decodeCmd w with
    | .ok i => .run i s
    | .error _ => .settled (s.raiseError .illegalCmd)

/-- A host transaction; the reserved size gets an error response (60_exceptions.md R143). -/
def fetchHost (r : Request) (s : State) : Fetched :=
  match decodeBus r with
  | .ok i => .run i s
  | .error _ => .settled s.busErr

/-- The next move of the total order (20_memory.md R77). When nothing more stands in it the engine moves: the
weak fairness of R76 (log entry 2). -/
def fetch (s : State) : Fetched :=
  match s.events with
  | [] => fetchEngine s
  | .host r :: es => fetchHost r { s with events := es }
  | .engine :: es => fetchEngine { s with events := es }
  | .reset :: es => .settled (State.resetEvent { s with events := es })

end Sys2Proof.Machine
end

