-- ==== Sys2Proof/Machine/Step.lean ====
section
/-! DEFINITION. One step of the total order (20_memory.md R77). -/

namespace Sys2Proof.Machine

/-- One step: the next move is fetched, and an instruction is run by exec. Only the fetch asks whether the engine's step
is enabled (log entry 12). -/
def step (s : State) : Host.Outcome State Fault Refusal :=
  match fetch s with
  | .run i t => exec i t
  | .settled t => .next t

/-- `s` with an encoded instruction as the next move: a command word is issued (42_host_bus.md R133) and the engine
moves next; a request is the host's next transaction. -/
def State.withEncoded (s : State) : Encoded → State
  | .cmd w => { s.issue w with events := .engine :: s.events }
  | .bus r => { s with events := .host r :: s.events }

/-- `s` with the instruction of an opcode-table word as the very next move (log entry 8). -/
def State.withFetchWord (s : State) (nbits w : Nat) : State := s.withEncoded (encodedOfTable nbits w)

end Sys2Proof.Machine
end

