-- ==== Sys2Proof/Safety.lean ====
section
/-! DEFINITION. What counts as a good state and a good completion, in the words the claims use. The sums and the fold are
written here a second time, in closed form, so that a claim does not repeat the model's loops. -/

namespace Sys2Proof

/-- The five commands of the opcode table. -/
def Instr.isCommand : Instr → Bool
  | .cksum | .build4 | .build6 | .echo4 | .echo6 => true
  | .rd8 _ | .rd16 _ | .rd32 _ | .wr8 _ _ | .wr16 _ _ | .wr32 _ _ => false

end Sys2Proof

namespace Sys2Proof.Machine

/-- The facts of the spec that hold of every state of a run. -/
structure State.Inv (s : State) : Prop where
  /-- The buffer keeps its canonical form, inside BUF_BYTES (20_memory.md R61). -/
  buf_wf : Memory.wf s.buf = true
  /-- BUSY = 1 implies DONE = 0 and ERRCODE = 0 (10_state.md R28). -/
  busy_clear : s.busy = true → s.done = false ∧ s.err = .noError
  /-- RAWLEN is 0 when the last completed command ended with an error (10_state.md R39). -/
  error_rawLen : s.err ≠ .noError → s.rawLen = 0
  /-- RAWLEN is a length inside the buffer (10_state.md R39). -/
  rawLen_le : s.rawLen.toNat ≤ Config.bufBytes
  /-- The accumulator's bound (40_checksum.md R107). -/
  acc_le : s.acc.toNat ≤ 0x7FFF8000

/-- Bytes 0 to n-1 summed as little-endian words: an even index weighs 1, an odd one 256 (40_checksum.md R100, R101). -/
def byteSum (rd : Nat → Byte) (n : Nat) : Nat := ∑ i ∈ Finset.range n, (rd i).toNat * 256 ^ (i % 2)

/-- The folded sum in closed form: 0 for 0, else the value from 1 to 0xFFFF that agrees modulo 0xFFFF
(40_checksum.md R108). -/
def onesFold (a : Nat) : Nat := if a = 0 then 0 else (a - 1) % 0xFFFF + 1

/-- The buffer's bytes with the checksum field at `off` taken as zero (40_checksum.md R109). -/
def State.byteZeroed (s : State) (off i : Nat) : Byte := if i = off ∨ i = off + 1 then 0 else s.byte i

/-- `t` holds a finalized buffer of `n` bytes with its checksum field at `off`: ACC is the sum with the field zeroed, CK its
folded complement, the field holds CK little-endian, RAWLEN is n (40_checksum.md R103, R105, R109). -/
structure State.Finalized (t : State) (n off : Nat) : Prop where
  acc_eq : t.acc.toNat = byteSum (t.byteZeroed off) n
  ck_eq : t.ck.toNat = 0xFFFF - onesFold (byteSum (t.byteZeroed off) n)
  field_low : (t.byte off).toNat = t.ck.toNat % 256
  field_high : (t.byte (off + 1)).toNat = t.ck.toNat / 256
  rawLen_eq : t.rawLen.toNat = n

/-- A command that succeeded from `s` changed nothing but BUF and the result registers, and completed
(10_state.md R44, 60_exceptions.md R145). -/
def State.Succeeded (s t : State) : Prop :=
  t = { s with buf := t.buf, ck := t.ck, acc := t.acc, rawLen := t.rawLen, err := .noError, done := true, pending := none }

/-- The whole effect of a command that completes with error `e` (60_exceptions.md R145, R149). -/
def State.failed (e : ErrCode) (s : State) : State := { s with err := e, rawLen := 0, done := true, pending := none }

/-- The n-byte read transaction of an address, n = 1, 2 or 4. -/
def readInstr (n : Nat) (a : Addr) : Instr := if n = 1 then .rd8 a else if n = 2 then .rd16 a else .rd32 a

/-- The n-byte write transaction of an address, n = 1, 2 or 4. -/
def writeInstr (n : Nat) (a : Addr) (v : Word) : Instr :=
  if n = 1 then .wr8 a v else if n = 2 then .wr16 a v else .wr32 a v

/-- The operand registers a host writes and a command reads (10_state.md R21). -/
def State.SameOperands (s t : State) : Prop :=
  t.len = s.len ∧ t.offset = s.offset ∧ t.msgType = s.msgType ∧ t.msgCode = s.msgCode ∧ t.ident = s.ident ∧
  t.seq = s.seq ∧ t.patLen = s.patLen ∧ t.pat = s.pat

/-- Every byte of the buffer reads the same (20_memory.md R61). -/
def State.SameBuffer (s t : State) : Prop := ∀ j, t.byte j = s.byte j

end Sys2Proof.Machine
end

