-- ==== Sys2Proof/Certificates/Slice0/Obligations.lean ====
section
/-! DEFINITION. The statements for the provers, from the numbered rules of spec/. -/

open Sys2Proof Sys2Proof.Machine

/-! Steps, decoding, encoding. -/

/-- 20_memory.md section 5: a host transaction runs the instruction its request decodes to, and the engine runs the
instruction the pending word decodes to, on the state with the head of the total order taken off (log entries 1, 2). -/
def Obligations.StepRunsTheDecodedInstruction : Prop :=
  ∀ (s : State) (i : Instr),
    (∀ r es, s.events = .host r :: es → decodeBus r = .ok i → step s = exec i { s with events := es }) ∧
    (∀ w es, s.events = .engine :: es → s.pending = some w → decodeCmd w = .ok i →
      step s = exec i { s with events := es }) ∧
    (∀ w, s.events = [] → s.pending = some w → decodeCmd w = .ok i → step s = exec i s)

/-- 60_exceptions.md R157: an idle block keeps all its state; nothing wakes it but an issue. -/
def Obligations.IdleBlockKeepsItsState : Prop :=
  ∀ s : State, s.pending = none →
    (s.events = [] → step s = .next s) ∧
    (∀ es, s.events = .engine :: es → step s = .next { s with events := es })

/-- 60_exceptions.md section 1 (R142): a pending word outside the table completes with ILLEGAL_CMD, and nothing but the error
updates of R145 happens. The clause for an empty order, where the very next step completes the word, is the model's choice (log
entry 2), and so is the engine moment as an entry of the order (log entry 1). -/
def Obligations.IllegalWordCompletesWithIllegalCmd : Prop :=
  ∀ (s : State) (w : Word), s.pending = some w →
    w ∉ [0x00000001#32, 0x00000002#32, 0x00000012#32, 0x00000003#32, 0x00000013#32] →
    (s.events = [] → step s = .next { s with err := .illegalCmd, rawLen := 0, done := true, pending := none }) ∧
    (∀ es, s.events = .engine :: es → step s =
      .next { s with events := es, err := .illegalCmd, rawLen := 0, done := true, pending := none })

/-- 30_encoding.md R86: the five command words, by exact match; BUILD4 and BUILD6 have identical semantics. -/
def Obligations.CommandWordsDecodeByExactMatch : Prop :=
  (∀ (w : Word) (i : Instr), decodeCmd w = .ok i ↔
    (w = 0x00000001#32 ∧ i = .cksum) ∨ (w = 0x00000002#32 ∧ i = .build4) ∨ (w = 0x00000012#32 ∧ i = .build6) ∨
    (w = 0x00000003#32 ∧ i = .echo4) ∨ (w = 0x00000013#32 ∧ i = .echo6)) ∧
  (∀ (w : Word) (e : Reject), decodeCmd w = .error e → e = .illegalCmd w) ∧
  (∀ s : State, exec .build4 s = exec .build6 s)

/-- 30_encoding.md R93: the transaction each pair `(req_we, req_size)` selects, and the reserved size. -/
def Obligations.BusDescriptorSelectsTheTransaction : Prop :=
  ∀ r : Request,
    (r.we = false → r.size = 0b00#2 → decodeBus r = .ok (.rd8 r.addr)) ∧
    (r.we = false → r.size = 0b01#2 → decodeBus r = .ok (.rd16 r.addr)) ∧
    (r.we = false → r.size = 0b10#2 → decodeBus r = .ok (.rd32 r.addr)) ∧
    (r.we = true → r.size = 0b00#2 → ∃ v : Word, decodeBus r = .ok (.wr8 r.addr v) ∧ v.toNat = r.wdata.toNat % 2 ^ 8) ∧
    (r.we = true → r.size = 0b01#2 → ∃ v : Word, decodeBus r = .ok (.wr16 r.addr v) ∧ v.toNat = r.wdata.toNat % 2 ^ 16) ∧
    (r.we = true → r.size = 0b10#2 → decodeBus r = .ok (.wr32 r.addr r.wdata)) ∧
    (r.size = 0b11#2 → ∀ (s : State) (es : List Event), s.events = .host r :: es →
      step s = .next { s with events := es, rsp := some ⟨true, 0⟩ })

/-- 30_encoding.md sections 1 and 3: no bit of an encoding is dropped. -/
def Obligations.DecodeOfEncodeIsTheInstruction : Prop :=
  ∀ i : Instr, i.WellFormed = true → decode (encode i) = .ok i

/-- 30_encoding.md sections 1 and 3, 20_memory.md section 2: what decodes is well-formed and encodes back to the same
command word, or to the same request but for the `req_wdata` bits the transaction does not use. That a read encodes with datum 0
is the model's choice (log entry 7). -/
def Obligations.EncodeOfDecodeIsTheEncoding : Prop :=
  (∀ (w : Word) (i : Instr), decodeCmd w = .ok i → i.WellFormed = true ∧ encode i = .cmd w) ∧
  (∀ (r : Request) (i : Instr), decodeBus r = .ok i → i.WellFormed = true ∧
    ∃ v : Word, encode i = .bus { r with wdata := v } ∧
      (r.we = false → v = 0) ∧ (r.we = true → v.toNat = r.wdata.toNat % 2 ^ (8 * 2 ^ r.size.toNat)))

/-- 30_encoding.md section 1, the rows of opcode_table.json: the command words, written out, decode to their commands; the
layout of the bus rows is the model's (log entry 7). -/
def Obligations.OpcodeTableWordsDecode : Prop :=
  decodeTableWord 32 0x00000001 = some .cksum ∧ decodeTableWord 32 0x00000002 = some .build4 ∧
  decodeTableWord 32 0x00000012 = some .build6 ∧ decodeTableWord 32 0x00000003 = some .echo4 ∧
  decodeTableWord 32 0x00000013 = some .echo6 ∧ decodeTableWord 32 0x00000011 = none ∧
  decodeTableWord 8 0b000 = some (.rd8 0) ∧ decodeTableWord 8 0b001 = some (.rd16 0) ∧
  decodeTableWord 8 0b010 = some (.rd32 0) ∧ decodeTableWord 8 0b100 = some (.wr8 0 0) ∧
  decodeTableWord 8 0b101 = some (.wr16 0 0) ∧ decodeTableWord 8 0b110 = some (.wr32 0 0) ∧
  decodeTableWord 8 0b011 = none

/-! Reset. -/

/-- 70_reset_and_hazards.md section 1: what the registers read after a reset event and at the model's start, that the
pending command is abandoned and irq is 0. That no response is presented is log entry 5. -/
def Obligations.ResetLeavesTheResetValues : Prop :=
  let AtReset (t : State) : Prop :=
    t.pending = none ∧ t.irq = false ∧ t.rsp = none ∧
    ∀ r : Reg, regRead r t =
      match r with
      | .id => 0x49434D50#32
      | .bufsz => 0x00010000#32
      | .patmax => 0x00000010#32
      | _ => 0#32
  AtReset State.reset ∧
  ∀ (s : State) (es : List Event), s.events = .reset :: es → ∃ t, step s = .next t ∧ t.events = es ∧ AtReset t

/-- 70_reset_and_hazards.md section 1, in the form of log entry 4: after a reset every byte is a value drawn at that reset,
whatever was written before. -/
def Obligations.ResetDrawsTheBufferAnew : Prop :=
  ∀ (s : State) (es : List Event), s.events = .reset :: es →
    ∃ t, step s = .next t ∧ t.epoch = s.epoch + 1 ∧ ∀ j, t.byte j = Config.freeByte (s.epoch + 1) j

/-! The commands. -/

/-- 40_checksum.md R103: CKSUM's two errors in their order, and its whole effect when it succeeds. -/
def Obligations.CksumComputesAndInsertsTheChecksum : Prop :=
  decodeCmd 0x00000001#32 = .ok .cksum ∧
  ∀ s : State,
    (s.len.toNat < 2 ∨ s.len.toNat < s.offset.toNat + 2 → exec .cksum s = .next (s.failed .argument)) ∧
    (2 ≤ s.len.toNat → s.offset.toNat + 2 ≤ s.len.toNat → Config.bufBytes < s.len.toNat →
      exec .cksum s = .next (s.failed .lengthRange)) ∧
    (2 ≤ s.len.toNat → s.offset.toNat + 2 ≤ s.len.toNat → s.len.toNat ≤ Config.bufBytes →
      ∃ t, exec .cksum s = .next t ∧ s.Succeeded t ∧ t.Finalized s.len.toNat s.offset.toNat ∧
        ∀ j, j ≠ s.offset.toNat → j ≠ s.offset.toNat + 1 → t.byte j = s.byte j)

/-- 41_builder.md R113, R119: BUILD4 and BUILD6, their one error and their whole effect. -/
def Obligations.BuildAssemblesHeaderAndChecksum : Prop :=
  decodeCmd 0x00000002#32 = .ok .build4 ∧ decodeCmd 0x00000012#32 = .ok .build6 ∧
  ∀ (i : Instr) (s : State), i = .build4 ∨ i = .build6 →
    (Config.bufBytes - 4 < s.len.toNat → exec i s = .next (s.failed .lengthRange)) ∧
    (s.len.toNat ≤ Config.bufBytes - 4 →
      ∃ t, exec i s = .next t ∧ s.Succeeded t ∧ t.Finalized (4 + s.len.toNat) 2 ∧
        t.byte 0 = s.msgType ∧ t.byte 1 = s.msgCode ∧ ∀ j, 4 ≤ j → t.byte j = s.byte j)

/-- 41_builder.md R114, R115: ECHO4 and ECHO6, their four errors in priority order and their whole effect: type 8 or 128, code 0,
identifier and sequence big-endian, the pattern repeated and truncated, the bytes from LEN on untouched. -/
def Obligations.EchoAssemblesTheEchoRequest : Prop :=
  decodeCmd 0x00000003#32 = .ok .echo4 ∧ decodeCmd 0x00000013#32 = .ok .echo6 ∧
  ∀ (i : Instr) (type : Byte) (s : State), (i = .echo4 ∧ type = 8) ∨ (i = .echo6 ∧ type = 128) →
    (s.len.toNat < 8 → exec i s = .next (s.failed .invalidLength)) ∧
    (Config.bufBytes < s.len.toNat → exec i s = .next (s.failed .lengthRange)) ∧
    (8 < s.len.toNat → s.len.toNat ≤ Config.bufBytes → s.patLen.toNat = 0 →
      exec i s = .next (s.failed .patternEmpty)) ∧
    (8 < s.len.toNat → s.len.toNat ≤ Config.bufBytes → Config.patMax < s.patLen.toNat →
      exec i s = .next (s.failed .patternRange)) ∧
    (8 ≤ s.len.toNat → s.len.toNat ≤ Config.bufBytes →
      (8 < s.len.toNat → 1 ≤ s.patLen.toNat ∧ s.patLen.toNat ≤ Config.patMax) →
      ∃ t, exec i s = .next t ∧ s.Succeeded t ∧ t.Finalized s.len.toNat 2 ∧
        t.byte 0 = type ∧ t.byte 1 = 0 ∧
        (t.byte 4).toNat = s.ident.toNat / 256 ∧ (t.byte 5).toNat = s.ident.toNat % 256 ∧
        (t.byte 6).toNat = s.seq.toNat / 256 ∧ (t.byte 7).toNat = s.seq.toNat % 256 ∧
        (∀ j, j < s.len.toNat - 8 → t.byte (8 + j) = s.patternByte (j % s.patLen.toNat)) ∧
        ∀ j, s.len.toNat ≤ j → t.byte j = s.byte j)

/-- 10_state.md section 3 (R35): PAT<j> holds pattern bytes 4j to 4j+3, little-endian, at offset 0x040 + 4j. -/
def Obligations.PatternBytesLieInThePatternRegisters : Prop :=
  ∀ (s : State) (j i : Nat) (hj : j < Config.patRegs), i < 4 →
    (s.patternByte (4 * j + i)).toNat = s.pat[j].toNat / 2 ^ (8 * i) % 256 ∧
    exec (.rd32 (BitVec.ofNat 17 (0x040 + 4 * j))) s = .next { s with rsp := some ⟨false, s.pat[j]⟩ }

/-- 40_checksum.md R106: the round-trip law, for CKSUM with an even offset and for every builder. -/
def Obligations.FinalizedBufferResumsToAllOnes : Prop :=
  ∀ (i : Instr) (s t : State), i.isCommand = true → exec i s = .next t → t.err = .noError →
    (i = .cksum → s.offset.toNat % 2 = 0) → fold16 (acc32 t.byte t.rawLen.toNat) = 0xFFFF

/-- 40_checksum.md R107: the accumulation never reaches 2^32 and the fold ends after at most two rounds, with the rule's bounds on
each round's result. -/
def Obligations.AccumulatorNeverWraps : Prop :=
  ∀ (rd : Nat → Byte) (n : Nat), n ≤ Config.bufBytes →
    sumBytes rd n ≤ 0x7FFF8000 ∧ (acc32 rd n).toNat = byteSum rd n ∧
    foldLoop 1 (sumBytes rd n) ≤ 0x17FFE ∧
    (0x10000 ≤ foldLoop 1 (sumBytes rd n) → foldLoop 2 (sumBytes rd n) ≤ 0x7FFF) ∧
    foldLoop 2 (sumBytes rd n) ≤ 0xFFFF ∧ ∀ k, foldLoop (2 + k) (sumBytes rd n) = foldLoop 2 (sumBytes rd n)

/-- 40_checksum.md section 3 (R108): the range facts of the fold, and its closed form. -/
def Obligations.FoldIsTheOnesComplementResidue : Prop :=
  ∀ a : Word,
    fold16 a = onesFold a.toNat ∧ fold16 a ≤ 0xFFFF ∧ (fold16 a = 0 ↔ a = 0) ∧ fold16 a % 0xFFFF = a.toNat % 0xFFFF ∧
    (checksumOf a = 0xFFFF#16 ↔ a = 0) ∧ (checksumOf a = 0#16 ↔ fold16 a = 0xFFFF)

/-- 40_checksum.md section 3 (R108, R109): CKSUM's result depends only on LEN, OFFSET and the bytes of the range outside
the field. -/
def Obligations.CksumDependsOnItsRangeOnly : Prop :=
  ∀ s s' t t' : State, s'.len = s.len → s'.offset = s.offset →
    (∀ j, j < s.len.toNat → j ≠ s.offset.toNat → j ≠ s.offset.toNat + 1 → s'.byte j = s.byte j) →
    exec .cksum s = .next t → exec .cksum s' = .next t' →
    t'.err = t.err ∧ t'.rawLen = t.rawLen ∧
    (t.err = .noError → t'.ck = t.ck ∧ t'.acc = t.acc ∧ ∀ j, j < s.len.toNat → t'.byte j = t.byte j)

/-- 40_checksum.md section 2 (R104): the odd-offset example; the round-trip law fails there. -/
def Obligations.OddOffsetBreaksTheRoundTrip : Prop :=
  ∀ s : State, s.len = 4#32 → s.offset = 1#32 →
    s.byte 0 = 0x01#8 → s.byte 1 = 0x77#8 → s.byte 2 = 0x77#8 → s.byte 3 = 0x00#8 →
    ∃ t, exec .cksum s = .next t ∧
      t.byte 0 = 0x01#8 ∧ t.byte 1 = 0xFE#8 ∧ t.byte 2 = 0xFF#8 ∧ t.byte 3 = 0x00#8 ∧
      fold16 (acc32 t.byte 4) = 0xFF00

/-- 60_exceptions.md R144: a command that completes with an error changes nothing but what R145 names. -/
def Obligations.CommandErrorsHaveNoPartialEffect : Prop :=
  ∀ (i : Instr) (s t : State), i.isCommand = true → exec i s = .next t → t.err ≠ .noError →
    t = s.failed t.err ∧ t.ck = s.ck ∧ t.acc = s.acc ∧ ∀ j, t.byte j = s.byte j

/-- 60_exceptions.md section 1 (R145): the completion updates of every command, and that a success changes only BUF, the result
registers and STATUS; ERR follows ERRCODE, OVR is not changed. The other parts are the same for a pending word that is no command, at
an engine moment (log entry 1) and where the order is empty, which is the model's choice (log entry 2). -/
def Obligations.CompletionUpdatesStatus : Prop :=
  (∀ (i : Instr) (s : State), i.isCommand = true →
    ∃ t, exec i s = .next t ∧ t.busy = false ∧ t.pending = none ∧ t.done = true ∧ t.ovr = s.ovr ∧
      t.errBit = decide (t.err ≠ .noError) ∧
      (t.err = .noError → s.Succeeded t) ∧ (t.err ≠ .noError → t = s.failed t.err)) ∧
  (∀ (s : State) (w : Word) (e : Reject), s.pending = some w → decodeCmd w = .error e →
    (∀ es, s.events = .engine :: es → step s = .next { s.failed .illegalCmd with events := es }) ∧
    (s.events = [] → step s = .next (s.failed .illegalCmd))) ∧
  ∀ s : State, (s.failed .illegalCmd).errBit = true

/-- 41_builder.md R122: an echo depends on its operands only, a build on its operands and its payload only. -/
def Obligations.BuildersAreDeterministic : Prop :=
  (∀ (i : Instr) (s s' t t' : State), i = .echo4 ∨ i = .echo6 →
    s'.len = s.len → s'.ident = s.ident → s'.seq = s.seq → s'.patLen = s.patLen →
    (∀ j, j < s.patLen.toNat → s'.patternByte j = s.patternByte j) →
    exec i s = .next t → exec i s' = .next t' →
    t'.err = t.err ∧ t'.rawLen = t.rawLen ∧
    (t.err = .noError → t'.ck = t.ck ∧ t'.acc = t.acc ∧ ∀ j, j < s.len.toNat → t'.byte j = t.byte j)) ∧
  (∀ (i : Instr) (s s' t t' : State), i = .build4 ∨ i = .build6 →
    s'.len = s.len → s'.msgType = s.msgType → s'.msgCode = s.msgCode →
    (∀ j, 4 ≤ j → j < 4 + s.len.toNat → s'.byte j = s.byte j) →
    exec i s = .next t → exec i s' = .next t' →
    t'.err = t.err ∧ t'.rawLen = t.rawLen ∧
    (t.err = .noError → t'.ck = t.ck ∧ t'.acc = t.acc ∧ ∀ j, j < 4 + s.len.toNat → t'.byte j = t.byte j))

/-- 20_memory.md section 3 (R69): a host sees CK at BUF[2..3] after a build or an echo, and the identifier and sequence number
byte-swapped at BUF[4..7] after an echo. -/
def Obligations.PacketFieldsAsTheBusSeesThem : Prop :=
  ∀ (i : Instr) (s t : State), exec i s = .next t → t.err = .noError →
    (i = .build4 ∨ i = .build6 ∨ i = .echo4 ∨ i = .echo6 →
      exec (.rd16 0x10002#17) t = .next { t with rsp := some ⟨false, t.ck.setWidth 32⟩ }) ∧
    (i = .echo4 ∨ i = .echo6 → ∃ v : Word, exec (.rd32 0x10004#17) t = .next { t with rsp := some ⟨false, v⟩ } ∧
      v.toNat = s.ident.toNat / 256 + 2 ^ 8 * (s.ident.toNat % 256) + 2 ^ 16 * (s.seq.toNat / 256) +
        2 ^ 24 * (s.seq.toNat % 256))

/-! The host bus. -/

/-- 42_host_bus.md R133: an accepted issue, and what else the same write does while BUSY = 1. -/
def Obligations.IssueMakesTheCommandPending : Prop :=
  ∀ (s : State) (v : Word),
    (s.busy = false → exec (.wr32 0x00014#17 v) s =
      .next { s with pending := some v, done := false, err := .noError, rsp := some ⟨false, 0⟩ }) ∧
    (s.busy = true → exec (.wr32 0x00014#17 v) s = .next { s with ovr := true, rsp := some ⟨true, 0⟩ })

/-- 42_host_bus.md R127: while BUSY = 1 the locked transactions are refused with OVR and no other effect, and every other
transaction proceeds. -/
def Obligations.BusyLockRefusesAndLetsTheRestProceed : Prop :=
  ∀ s : State, s.busy = true →
    (∀ (n i : Nat) (a : Addr) (v : Word), n = 1 ∨ n = 2 ∨ n = 4 → a.toNat = 0x10000 + i → i < Config.bufBytes →
      i % n = 0 →
      exec (readInstr n a) s = .next { s with ovr := true, rsp := some ⟨true, 0⟩ } ∧
      exec (writeInstr n a v) s = .next { s with ovr := true, rsp := some ⟨true, 0⟩ }) ∧
    (∀ (a : Addr) (v : Word), a.toNat ∈ [0x14, 0x18, 0x1C, 0x20, 0x24, 0x28, 0x40, 0x44, 0x48, 0x4C] →
      exec (.wr32 a v) s = .next { s with ovr := true, rsp := some ⟨true, 0⟩ }) ∧
    (∀ a : Addr, a.toNat ≤ 0xFFF → a.toNat % 4 = 0 →
      ∃ v, exec (.rd32 a) s = .next { s with rsp := some ⟨false, v⟩ }) ∧
    (∀ (a : Addr) (v : Word), a.toNat ≤ 0xFFF → a.toNat % 4 = 0 →
      a.toNat ∉ [0x0C, 0x10, 0x14, 0x18, 0x1C, 0x20, 0x24, 0x28, 0x40, 0x44, 0x48, 0x4C] →
      exec (.wr32 a v) s = .next { s with rsp := some ⟨false, 0⟩ }) ∧
    (∀ v : Word, exec (.wr32 0x0000C#17 v) s = .next { s with ie := v.getLsbD 0, rsp := some ⟨false, 0⟩ }) ∧
    (∀ v : Word, exec (.wr32 0x00010#17 v) s = .next
      { s with done := s.done && !v.getLsbD 1, ovr := s.ovr && !v.getLsbD 3, rsp := some ⟨false, 0⟩ })

/-- 60_exceptions.md section 1 (R143): the unmapped, misaligned and narrow-register accesses get an error response, no
other effect, and do not set OVR, BUSY or not. -/
def Obligations.BadTransactionsOnlyGetAnErrorResponse : Prop :=
  ∀ (s : State) (n : Nat) (a : Addr) (v : Word), n = 1 ∨ n = 2 ∨ n = 4 →
    (0x01000 ≤ a.toNat ∧ a.toNat < 0x10000) ∨ (a.toNat ≤ 0xFFF ∧ (n ≠ 4 ∨ a.toNat % 4 ≠ 0)) ∨
      (0x10000 ≤ a.toNat ∧ a.toNat % n ≠ 0) →
    exec (readInstr n a) s = .next { s with rsp := some ⟨true, 0⟩ } ∧
    exec (writeInstr n a v) s = .next { s with rsp := some ⟨true, 0⟩ }

/-- 42_host_bus.md R136: what a 32-bit read of each register returns, BUSY or not; it changes no register. STATUS shows the error
by its number in 60_exceptions.md R140. -/
def Obligations.RegisterReadsReturnTheRegisters : Prop :=
  ∀ s : State,
    let Reads (a : Addr) (x : Nat) : Prop :=
      ∃ v : Word, exec (.rd32 a) s = .next { s with rsp := some ⟨false, v⟩ } ∧ v.toNat = x
    let errorNumber : Nat :=
      match s.err with
      | .noError => 0
      | .argument => 1
      | .invalidLength => 2
      | .illegalCmd => 3
      | .lengthRange => 4
      | .patternEmpty => 5
      | .patternRange => 6
    Reads 0x00000#17 0x49434D50 ∧ Reads 0x00004#17 65536 ∧ Reads 0x00008#17 16 ∧
    Reads 0x0000C#17 s.ie.toNat ∧
    Reads 0x00010#17 (16 * errorNumber + 8 * s.ovr.toNat + 4 * (decide (s.err ≠ .noError)).toNat + 2 * s.done.toNat +
      s.pending.isSome.toNat) ∧
    Reads 0x00014#17 0 ∧ Reads 0x00018#17 s.len.toNat ∧ Reads 0x0001C#17 s.offset.toNat ∧
    Reads 0x00020#17 (256 * s.msgCode.toNat + s.msgType.toNat) ∧
    Reads 0x00024#17 (65536 * s.seq.toNat + s.ident.toNat) ∧
    Reads 0x00028#17 s.patLen.toNat ∧ Reads 0x0002C#17 s.ck.toNat ∧ Reads 0x00030#17 s.acc.toNat ∧
    Reads 0x00034#17 s.rawLen.toNat ∧
    (∀ (j : Nat) (hj : j < Config.patRegs), Reads (BitVec.ofNat 17 (0x040 + 4 * j)) s.pat[j].toNat) ∧
    (∀ a : Addr, a.toNat ≤ 0xFFF → a.toNat % 4 = 0 →
      a.toNat = 0x038 ∨ a.toNat = 0x03C ∨ 0x040 + Config.patMax ≤ a.toNat → Reads a 0)

/-- 42_host_bus.md R135: the effect of a non-locked 32-bit write of each register. -/
def Obligations.RegisterWritesHaveTheirEffect : Prop :=
  ∀ (s : State) (v : Word),
    (∀ a : Addr, a.toNat ∈ [0x000, 0x004, 0x008, 0x02C, 0x030, 0x034] →
      exec (.wr32 a v) s = .next { s with rsp := some ⟨false, 0⟩ }) ∧
    exec (.wr32 0x0000C#17 v) s = .next { s with ie := v.getLsbD 0, rsp := some ⟨false, 0⟩ } ∧
    exec (.wr32 0x00010#17 v) s = .next
      { s with done := s.done && !v.getLsbD 1, ovr := s.ovr && !v.getLsbD 3, rsp := some ⟨false, 0⟩ } ∧
    (s.busy = false →
      exec (.wr32 0x00018#17 v) s = .next { s with len := v, rsp := some ⟨false, 0⟩ } ∧
      exec (.wr32 0x0001C#17 v) s = .next { s with offset := v, rsp := some ⟨false, 0⟩ } ∧
      exec (.wr32 0x00028#17 v) s = .next { s with patLen := v, rsp := some ⟨false, 0⟩ } ∧
      (∃ (ty co : Byte), exec (.wr32 0x00020#17 v) s =
          .next { s with msgType := ty, msgCode := co, rsp := some ⟨false, 0⟩ } ∧
        ty.toNat = v.toNat % 256 ∧ co.toNat = v.toNat / 256 % 256) ∧
      (∃ (idv sq : Half), exec (.wr32 0x00024#17 v) s =
          .next { s with ident := idv, seq := sq, rsp := some ⟨false, 0⟩ } ∧
        idv.toNat = v.toNat % 65536 ∧ sq.toNat = v.toNat / 65536) ∧
      (∀ (j : Nat) (hj : j < Config.patRegs), exec (.wr32 (BitVec.ofNat 17 (0x040 + 4 * j)) v) s =
        .next { s with pat := s.pat.set j v, rsp := some ⟨false, 0⟩ })) ∧
    (∀ a : Addr, a.toNat ≤ 0xFFF → a.toNat % 4 = 0 →
      a.toNat = 0x038 ∨ a.toNat = 0x03C ∨ 0x040 + Config.patMax ≤ a.toNat →
      exec (.wr32 a v) s = .next { s with rsp := some ⟨false, 0⟩ })

/-- 20_memory.md R68: buffer reads and writes of 1, 2 and 4 bytes are little-endian (42_host_bus.md R128 to R134, with BUSY = 0),
and a register read returns the register's value. The write's frame is whole: no other byte and no register but the response
changes. -/
def Obligations.BufferAccessesAreLittleEndian : Prop :=
  ∀ s : State,
    (∀ (n i : Nat) (a : Addr), n = 1 ∨ n = 2 ∨ n = 4 → a.toNat = 0x10000 + i → i < Config.bufBytes → i % n = 0 →
      s.busy = false →
      (∃ x : Word, exec (readInstr n a) s = .next { s with rsp := some ⟨false, x⟩ } ∧
        x.toNat = ∑ k ∈ Finset.range n, (s.byte (i + k)).toNat * 256 ^ k) ∧
      ∀ v : Word, ∃ t, exec (writeInstr n a v) s = .next t ∧ t = { s with buf := t.buf, rsp := some ⟨false, 0⟩ } ∧
        (∀ k, k < n → (t.byte (i + k)).toNat = v.toNat / 256 ^ k % 256) ∧
        ∀ j, j < i ∨ i + n ≤ j → t.byte j = s.byte j) ∧
    ∀ (r : Reg) (a : Addr), classify 4 a = .reg r → exec (.rd32 a) s = .next { s with rsp := some ⟨false, regRead r s⟩ }

/-- 20_memory.md section 4 (R73): a read changes nothing but the response, and OVR when the lock refuses it. -/
def Obligations.ReadsHaveNoSideEffect : Prop :=
  ∀ (i : Instr) (a : Addr) (s : State), i = .rd8 a ∨ i = .rd16 a ∨ i = .rd32 a →
    ∃ r : Response, exec i s = .next { s with rsp := some r } ∨
      (s.busy = true ∧ 0x10000 ≤ a.toNat ∧ exec i s = .next { s with ovr := true, rsp := some ⟨true, 0⟩ })

/-! The interrupt output. -/

/-- 20_memory.md R83: irq changes in the step that changes DONE or IE: it rises at a completion when IE = 1 and falls at the W1C
write, at the CTRL write that clears IE and at the next issue. -/
def Obligations.IrqFollowsDoneAndEnable : Prop :=
  ∀ s : State,
    (∀ i : Instr, i.isCommand = true → ∃ t, exec i s = .next t ∧ t.irq = s.ie) ∧
    (∀ v : Word, ∃ t, exec (.wr32 0x00010#17 v) s = .next t ∧ t.irq = (s.irq && !v.getLsbD 1)) ∧
    (∀ v : Word, ∃ t, exec (.wr32 0x0000C#17 v) s = .next t ∧ t.irq = (v.getLsbD 0 && s.done)) ∧
    (s.busy = false → ∀ v : Word, ∃ t, exec (.wr32 0x00014#17 v) s = .next t ∧ t.irq = false)

/-- 60_exceptions.md section 2 (R147): irq rises only when a pending command completes or when a host enables it. -/
def Obligations.IrqRisesOnlyByCompletionOrEnable : Prop :=
  ∀ s t : State, step s = .next t → s.irq = false → t.irq = true →
    (s.busy = true ∧ t.busy = false ∧ t.done = true) ∨
    ∃ r es v, s.events = .host r :: es ∧ decodeBus r = .ok (.wr32 0x0000C#17 v) ∧ s.done = true ∧ s.ie = false

/-! Whole-machine rules. -/

/-- 10_state.md section 2 (R21), 42_host_bus.md section 1: an operand register changes only by a 32-bit host write
while BUSY = 0, or by a reset. -/
def Obligations.OperandsChangeOnlyByHostWriteOrReset : Prop :=
  ∀ s t : State, step s = .next t → ¬ s.SameOperands t →
    (∃ r es a v, s.events = .host r :: es ∧ decodeBus r = .ok (.wr32 a v) ∧ a.toNat ≤ 0xFFF ∧ s.busy = false) ∨
    ∃ es, s.events = .reset :: es

/-- 20_memory.md section 5 (R76): while a command stays pending its operands, the pattern, the buffer and the previous results stay what
they were; a command stops being pending only by its completion or by a reset. -/
def Obligations.PendingCommandKeepsItsOperands : Prop :=
  ∀ (s t : State) (w : Word), s.pending = some w → step s = .next t →
    (t.pending = some w ∧ s.SameOperands t ∧ s.SameBuffer t ∧ t.ck = s.ck ∧ t.acc = s.acc ∧ t.rawLen = s.rawLen ∧
      t.err = s.err) ∨
    (t.pending = none ∧ t.done = true ∧ s.SameOperands t ∧ t.ovr = s.ovr ∧ t.ie = s.ie) ∨
    ∃ es, s.events = .reset :: es ∧ t.pending = none

/-- 10_state.md section 3 (R28): OVR is sticky; only a 1 written to bit 3 of STATUS or a reset clears it. -/
def Obligations.OvrIsSticky : Prop :=
  ∀ s t : State, step s = .next t → s.ovr = true →
    t.ovr = true ∨
    (∃ r es v, s.events = .host r :: es ∧ decodeBus r = .ok (.wr32 0x00010#17 v) ∧ v.getLsbD 3 = true) ∨
    ∃ es, s.events = .reset :: es

/-- 60_exceptions.md section 3 (R151): an error's ERRCODE stays until the next issue or reset. -/
def Obligations.ErrcodeStaysUntilIssueOrReset : Prop :=
  ∀ s t : State, s.Inv → step s = .next t → s.err ≠ .noError →
    t.err = s.err ∨
    (∃ r es v, s.events = .host r :: es ∧ decodeBus r = .ok (.wr32 0x00014#17 v) ∧ t.pending = some v ∧
      t.err = .noError) ∨
    ∃ es, s.events = .reset :: es

/-- The invariant's first half: it holds after reset (70_reset_and_hazards.md section 1). -/
def Obligations.InvariantHoldsAfterReset : Prop := State.reset.Inv

/-- The invariant's second half: every step keeps the buffer's canonical form, the legal STATUS combinations (10_state.md R28), the
bounds of RAWLEN (R39) and of ACC (40_checksum.md R107), from every state that has them. -/
def Obligations.StepKeepsTheInvariant : Prop :=
  ∀ s t : State, s.Inv → step s = .next t → t.Inv

/-- 60_exceptions.md: the block has no condition on which it stops; errors are completions and error responses. -/
def Obligations.EveryStepAnswersANextState : Prop :=
  ∀ s : State, ∃ t, step s = .next t

/-- 20_memory.md section 5 (R76), under the fairness of log entry 2: when the rest of the total order has been taken and one
step more, nothing is pending. -/
def Obligations.PendingCommandsEventuallyComplete : Prop :=
  ∀ s : State, ∃ t : State, Host.Core.run Sys2Proof.core (s.events.length + 1) s = .next t ∧
    t.pending = none ∧ t.events = []

/-- 60_exceptions.md section 4 (R153), log entry 10: the block's space starts at BASE, aligned to 0x20000, and holds its 17-bit
addresses and no other. -/
def Obligations.BlockAddressesLieFromBase : Prop :=
  Config.base % 0x20000 = 0 ∧ (∀ a : Addr, blockAddress (Config.base + a.toNat) = some a) ∧
  ∀ x : Nat, x < Config.base ∨ Config.base + 0x20000 ≤ x → blockAddress x = none
end

