-- ==== Sys2Proof/Laws/State.lean ====
section
/-! SUPPORT. One lemma per field of State and update of it, true by rfl; later proofs never unfold a record update. -/

namespace Sys2Proof.Machine

section Updates

variable (s : State)

@[simp] theorem State.setByte_ie (i : Nat) (b : Byte) : (State.setByte i b s).ie = s.ie := rfl
@[simp] theorem State.setByte_done (i : Nat) (b : Byte) : (State.setByte i b s).done = s.done := rfl
@[simp] theorem State.setByte_ovr (i : Nat) (b : Byte) : (State.setByte i b s).ovr = s.ovr := rfl
@[simp] theorem State.setByte_err (i : Nat) (b : Byte) : (State.setByte i b s).err = s.err := rfl
@[simp] theorem State.setByte_len (i : Nat) (b : Byte) : (State.setByte i b s).len = s.len := rfl
@[simp] theorem State.setByte_offset (i : Nat) (b : Byte) : (State.setByte i b s).offset = s.offset := rfl
@[simp] theorem State.setByte_msgType (i : Nat) (b : Byte) : (State.setByte i b s).msgType = s.msgType := rfl
@[simp] theorem State.setByte_msgCode (i : Nat) (b : Byte) : (State.setByte i b s).msgCode = s.msgCode := rfl
@[simp] theorem State.setByte_ident (i : Nat) (b : Byte) : (State.setByte i b s).ident = s.ident := rfl
@[simp] theorem State.setByte_seq (i : Nat) (b : Byte) : (State.setByte i b s).seq = s.seq := rfl
@[simp] theorem State.setByte_patLen (i : Nat) (b : Byte) : (State.setByte i b s).patLen = s.patLen := rfl
@[simp] theorem State.setByte_pat (i : Nat) (b : Byte) : (State.setByte i b s).pat = s.pat := rfl
@[simp] theorem State.setByte_ck (i : Nat) (b : Byte) : (State.setByte i b s).ck = s.ck := rfl
@[simp] theorem State.setByte_acc (i : Nat) (b : Byte) : (State.setByte i b s).acc = s.acc := rfl
@[simp] theorem State.setByte_rawLen (i : Nat) (b : Byte) : (State.setByte i b s).rawLen = s.rawLen := rfl
@[simp] theorem State.setByte_pending (i : Nat) (b : Byte) : (State.setByte i b s).pending = s.pending := rfl
@[simp] theorem State.setByte_buf (i : Nat) (b : Byte) : (State.setByte i b s).buf = Buf.set s.buf i b := rfl
@[simp] theorem State.setByte_epoch (i : Nat) (b : Byte) : (State.setByte i b s).epoch = s.epoch := rfl
@[simp] theorem State.setByte_rsp (i : Nat) (b : Byte) : (State.setByte i b s).rsp = s.rsp := rfl
@[simp] theorem State.setByte_events (i : Nat) (b : Byte) : (State.setByte i b s).events = s.events := rfl

@[simp] theorem State.respond_ie (v : Word) : (State.respond v s).ie = s.ie := rfl
@[simp] theorem State.respond_done (v : Word) : (State.respond v s).done = s.done := rfl
@[simp] theorem State.respond_ovr (v : Word) : (State.respond v s).ovr = s.ovr := rfl
@[simp] theorem State.respond_err (v : Word) : (State.respond v s).err = s.err := rfl
@[simp] theorem State.respond_len (v : Word) : (State.respond v s).len = s.len := rfl
@[simp] theorem State.respond_offset (v : Word) : (State.respond v s).offset = s.offset := rfl
@[simp] theorem State.respond_msgType (v : Word) : (State.respond v s).msgType = s.msgType := rfl
@[simp] theorem State.respond_msgCode (v : Word) : (State.respond v s).msgCode = s.msgCode := rfl
@[simp] theorem State.respond_ident (v : Word) : (State.respond v s).ident = s.ident := rfl
@[simp] theorem State.respond_seq (v : Word) : (State.respond v s).seq = s.seq := rfl
@[simp] theorem State.respond_patLen (v : Word) : (State.respond v s).patLen = s.patLen := rfl
@[simp] theorem State.respond_pat (v : Word) : (State.respond v s).pat = s.pat := rfl
@[simp] theorem State.respond_ck (v : Word) : (State.respond v s).ck = s.ck := rfl
@[simp] theorem State.respond_acc (v : Word) : (State.respond v s).acc = s.acc := rfl
@[simp] theorem State.respond_rawLen (v : Word) : (State.respond v s).rawLen = s.rawLen := rfl
@[simp] theorem State.respond_pending (v : Word) : (State.respond v s).pending = s.pending := rfl
@[simp] theorem State.respond_buf (v : Word) : (State.respond v s).buf = s.buf := rfl
@[simp] theorem State.respond_epoch (v : Word) : (State.respond v s).epoch = s.epoch := rfl
@[simp] theorem State.respond_rsp (v : Word) : (State.respond v s).rsp = some ⟨false, v⟩ := rfl
@[simp] theorem State.respond_events (v : Word) : (State.respond v s).events = s.events := rfl

@[simp] theorem State.busErr_ie : (s.busErr).ie = s.ie := rfl
@[simp] theorem State.busErr_done : (s.busErr).done = s.done := rfl
@[simp] theorem State.busErr_ovr : (s.busErr).ovr = s.ovr := rfl
@[simp] theorem State.busErr_err : (s.busErr).err = s.err := rfl
@[simp] theorem State.busErr_len : (s.busErr).len = s.len := rfl
@[simp] theorem State.busErr_offset : (s.busErr).offset = s.offset := rfl
@[simp] theorem State.busErr_msgType : (s.busErr).msgType = s.msgType := rfl
@[simp] theorem State.busErr_msgCode : (s.busErr).msgCode = s.msgCode := rfl
@[simp] theorem State.busErr_ident : (s.busErr).ident = s.ident := rfl
@[simp] theorem State.busErr_seq : (s.busErr).seq = s.seq := rfl
@[simp] theorem State.busErr_patLen : (s.busErr).patLen = s.patLen := rfl
@[simp] theorem State.busErr_pat : (s.busErr).pat = s.pat := rfl
@[simp] theorem State.busErr_ck : (s.busErr).ck = s.ck := rfl
@[simp] theorem State.busErr_acc : (s.busErr).acc = s.acc := rfl
@[simp] theorem State.busErr_rawLen : (s.busErr).rawLen = s.rawLen := rfl
@[simp] theorem State.busErr_pending : (s.busErr).pending = s.pending := rfl
@[simp] theorem State.busErr_buf : (s.busErr).buf = s.buf := rfl
@[simp] theorem State.busErr_epoch : (s.busErr).epoch = s.epoch := rfl
@[simp] theorem State.busErr_rsp : (s.busErr).rsp = some ⟨true, 0⟩ := rfl
@[simp] theorem State.busErr_events : (s.busErr).events = s.events := rfl

@[simp] theorem State.refuse_ie : (s.refuse).ie = s.ie := rfl
@[simp] theorem State.refuse_done : (s.refuse).done = s.done := rfl
@[simp] theorem State.refuse_ovr : (s.refuse).ovr = true := rfl
@[simp] theorem State.refuse_err : (s.refuse).err = s.err := rfl
@[simp] theorem State.refuse_len : (s.refuse).len = s.len := rfl
@[simp] theorem State.refuse_offset : (s.refuse).offset = s.offset := rfl
@[simp] theorem State.refuse_msgType : (s.refuse).msgType = s.msgType := rfl
@[simp] theorem State.refuse_msgCode : (s.refuse).msgCode = s.msgCode := rfl
@[simp] theorem State.refuse_ident : (s.refuse).ident = s.ident := rfl
@[simp] theorem State.refuse_seq : (s.refuse).seq = s.seq := rfl
@[simp] theorem State.refuse_patLen : (s.refuse).patLen = s.patLen := rfl
@[simp] theorem State.refuse_pat : (s.refuse).pat = s.pat := rfl
@[simp] theorem State.refuse_ck : (s.refuse).ck = s.ck := rfl
@[simp] theorem State.refuse_acc : (s.refuse).acc = s.acc := rfl
@[simp] theorem State.refuse_rawLen : (s.refuse).rawLen = s.rawLen := rfl
@[simp] theorem State.refuse_pending : (s.refuse).pending = s.pending := rfl
@[simp] theorem State.refuse_buf : (s.refuse).buf = s.buf := rfl
@[simp] theorem State.refuse_epoch : (s.refuse).epoch = s.epoch := rfl
@[simp] theorem State.refuse_rsp : (s.refuse).rsp = some ⟨true, 0⟩ := rfl
@[simp] theorem State.refuse_events : (s.refuse).events = s.events := rfl

@[simp] theorem State.writeStatus_ie (v : Word) : (State.writeStatus v s).ie = s.ie := rfl
@[simp] theorem State.writeStatus_done (v : Word) : (State.writeStatus v s).done = (s.done && !v.getLsbD 1) := rfl
@[simp] theorem State.writeStatus_ovr (v : Word) : (State.writeStatus v s).ovr = (s.ovr && !v.getLsbD 3) := rfl
@[simp] theorem State.writeStatus_err (v : Word) : (State.writeStatus v s).err = s.err := rfl
@[simp] theorem State.writeStatus_len (v : Word) : (State.writeStatus v s).len = s.len := rfl
@[simp] theorem State.writeStatus_offset (v : Word) : (State.writeStatus v s).offset = s.offset := rfl
@[simp] theorem State.writeStatus_msgType (v : Word) : (State.writeStatus v s).msgType = s.msgType := rfl
@[simp] theorem State.writeStatus_msgCode (v : Word) : (State.writeStatus v s).msgCode = s.msgCode := rfl
@[simp] theorem State.writeStatus_ident (v : Word) : (State.writeStatus v s).ident = s.ident := rfl
@[simp] theorem State.writeStatus_seq (v : Word) : (State.writeStatus v s).seq = s.seq := rfl
@[simp] theorem State.writeStatus_patLen (v : Word) : (State.writeStatus v s).patLen = s.patLen := rfl
@[simp] theorem State.writeStatus_pat (v : Word) : (State.writeStatus v s).pat = s.pat := rfl
@[simp] theorem State.writeStatus_ck (v : Word) : (State.writeStatus v s).ck = s.ck := rfl
@[simp] theorem State.writeStatus_acc (v : Word) : (State.writeStatus v s).acc = s.acc := rfl
@[simp] theorem State.writeStatus_rawLen (v : Word) : (State.writeStatus v s).rawLen = s.rawLen := rfl
@[simp] theorem State.writeStatus_pending (v : Word) : (State.writeStatus v s).pending = s.pending := rfl
@[simp] theorem State.writeStatus_buf (v : Word) : (State.writeStatus v s).buf = s.buf := rfl
@[simp] theorem State.writeStatus_epoch (v : Word) : (State.writeStatus v s).epoch = s.epoch := rfl
@[simp] theorem State.writeStatus_rsp (v : Word) : (State.writeStatus v s).rsp = s.rsp := rfl
@[simp] theorem State.writeStatus_events (v : Word) : (State.writeStatus v s).events = s.events := rfl

@[simp] theorem State.issue_ie (v : Word) : (State.issue v s).ie = s.ie := rfl
@[simp] theorem State.issue_done (v : Word) : (State.issue v s).done = false := rfl
@[simp] theorem State.issue_ovr (v : Word) : (State.issue v s).ovr = s.ovr := rfl
@[simp] theorem State.issue_err (v : Word) : (State.issue v s).err = .noError := rfl
@[simp] theorem State.issue_len (v : Word) : (State.issue v s).len = s.len := rfl
@[simp] theorem State.issue_offset (v : Word) : (State.issue v s).offset = s.offset := rfl
@[simp] theorem State.issue_msgType (v : Word) : (State.issue v s).msgType = s.msgType := rfl
@[simp] theorem State.issue_msgCode (v : Word) : (State.issue v s).msgCode = s.msgCode := rfl
@[simp] theorem State.issue_ident (v : Word) : (State.issue v s).ident = s.ident := rfl
@[simp] theorem State.issue_seq (v : Word) : (State.issue v s).seq = s.seq := rfl
@[simp] theorem State.issue_patLen (v : Word) : (State.issue v s).patLen = s.patLen := rfl
@[simp] theorem State.issue_pat (v : Word) : (State.issue v s).pat = s.pat := rfl
@[simp] theorem State.issue_ck (v : Word) : (State.issue v s).ck = s.ck := rfl
@[simp] theorem State.issue_acc (v : Word) : (State.issue v s).acc = s.acc := rfl
@[simp] theorem State.issue_rawLen (v : Word) : (State.issue v s).rawLen = s.rawLen := rfl
@[simp] theorem State.issue_pending (v : Word) : (State.issue v s).pending = some v := rfl
@[simp] theorem State.issue_buf (v : Word) : (State.issue v s).buf = s.buf := rfl
@[simp] theorem State.issue_epoch (v : Word) : (State.issue v s).epoch = s.epoch := rfl
@[simp] theorem State.issue_rsp (v : Word) : (State.issue v s).rsp = s.rsp := rfl
@[simp] theorem State.issue_events (v : Word) : (State.issue v s).events = s.events := rfl

@[simp] theorem State.raiseError_ie (e : ErrCode) : (State.raiseError e s).ie = s.ie := rfl
@[simp] theorem State.raiseError_done (e : ErrCode) : (State.raiseError e s).done = true := rfl
@[simp] theorem State.raiseError_ovr (e : ErrCode) : (State.raiseError e s).ovr = s.ovr := rfl
@[simp] theorem State.raiseError_err (e : ErrCode) : (State.raiseError e s).err = e := rfl
@[simp] theorem State.raiseError_len (e : ErrCode) : (State.raiseError e s).len = s.len := rfl
@[simp] theorem State.raiseError_offset (e : ErrCode) : (State.raiseError e s).offset = s.offset := rfl
@[simp] theorem State.raiseError_msgType (e : ErrCode) : (State.raiseError e s).msgType = s.msgType := rfl
@[simp] theorem State.raiseError_msgCode (e : ErrCode) : (State.raiseError e s).msgCode = s.msgCode := rfl
@[simp] theorem State.raiseError_ident (e : ErrCode) : (State.raiseError e s).ident = s.ident := rfl
@[simp] theorem State.raiseError_seq (e : ErrCode) : (State.raiseError e s).seq = s.seq := rfl
@[simp] theorem State.raiseError_patLen (e : ErrCode) : (State.raiseError e s).patLen = s.patLen := rfl
@[simp] theorem State.raiseError_pat (e : ErrCode) : (State.raiseError e s).pat = s.pat := rfl
@[simp] theorem State.raiseError_ck (e : ErrCode) : (State.raiseError e s).ck = s.ck := rfl
@[simp] theorem State.raiseError_acc (e : ErrCode) : (State.raiseError e s).acc = s.acc := rfl
@[simp] theorem State.raiseError_rawLen (e : ErrCode) : (State.raiseError e s).rawLen = 0 := rfl
@[simp] theorem State.raiseError_pending (e : ErrCode) : (State.raiseError e s).pending = none := rfl
@[simp] theorem State.raiseError_buf (e : ErrCode) : (State.raiseError e s).buf = s.buf := rfl
@[simp] theorem State.raiseError_epoch (e : ErrCode) : (State.raiseError e s).epoch = s.epoch := rfl
@[simp] theorem State.raiseError_rsp (e : ErrCode) : (State.raiseError e s).rsp = s.rsp := rfl
@[simp] theorem State.raiseError_events (e : ErrCode) : (State.raiseError e s).events = s.events := rfl

@[simp] theorem State.finish_ie : (s.finish).ie = s.ie := rfl
@[simp] theorem State.finish_done : (s.finish).done = true := rfl
@[simp] theorem State.finish_ovr : (s.finish).ovr = s.ovr := rfl
@[simp] theorem State.finish_err : (s.finish).err = .noError := rfl
@[simp] theorem State.finish_len : (s.finish).len = s.len := rfl
@[simp] theorem State.finish_offset : (s.finish).offset = s.offset := rfl
@[simp] theorem State.finish_msgType : (s.finish).msgType = s.msgType := rfl
@[simp] theorem State.finish_msgCode : (s.finish).msgCode = s.msgCode := rfl
@[simp] theorem State.finish_ident : (s.finish).ident = s.ident := rfl
@[simp] theorem State.finish_seq : (s.finish).seq = s.seq := rfl
@[simp] theorem State.finish_patLen : (s.finish).patLen = s.patLen := rfl
@[simp] theorem State.finish_pat : (s.finish).pat = s.pat := rfl
@[simp] theorem State.finish_ck : (s.finish).ck = s.ck := rfl
@[simp] theorem State.finish_acc : (s.finish).acc = s.acc := rfl
@[simp] theorem State.finish_rawLen : (s.finish).rawLen = s.rawLen := rfl
@[simp] theorem State.finish_pending : (s.finish).pending = none := rfl
@[simp] theorem State.finish_buf : (s.finish).buf = s.buf := rfl
@[simp] theorem State.finish_epoch : (s.finish).epoch = s.epoch := rfl
@[simp] theorem State.finish_rsp : (s.finish).rsp = s.rsp := rfl
@[simp] theorem State.finish_events : (s.finish).events = s.events := rfl

@[simp] theorem State.resetEvent_ie : (s.resetEvent).ie = false := rfl
@[simp] theorem State.resetEvent_done : (s.resetEvent).done = false := rfl
@[simp] theorem State.resetEvent_ovr : (s.resetEvent).ovr = false := rfl
@[simp] theorem State.resetEvent_err : (s.resetEvent).err = .noError := rfl
@[simp] theorem State.resetEvent_len : (s.resetEvent).len = 0 := rfl
@[simp] theorem State.resetEvent_offset : (s.resetEvent).offset = 0 := rfl
@[simp] theorem State.resetEvent_msgType : (s.resetEvent).msgType = 0 := rfl
@[simp] theorem State.resetEvent_msgCode : (s.resetEvent).msgCode = 0 := rfl
@[simp] theorem State.resetEvent_ident : (s.resetEvent).ident = 0 := rfl
@[simp] theorem State.resetEvent_seq : (s.resetEvent).seq = 0 := rfl
@[simp] theorem State.resetEvent_patLen : (s.resetEvent).patLen = 0 := rfl
@[simp] theorem State.resetEvent_pat : (s.resetEvent).pat = Vector.replicate Config.patRegs 0 := rfl
@[simp] theorem State.resetEvent_ck : (s.resetEvent).ck = 0 := rfl
@[simp] theorem State.resetEvent_acc : (s.resetEvent).acc = 0 := rfl
@[simp] theorem State.resetEvent_rawLen : (s.resetEvent).rawLen = 0 := rfl
@[simp] theorem State.resetEvent_pending : (s.resetEvent).pending = none := rfl
@[simp] theorem State.resetEvent_buf : (s.resetEvent).buf = [] := rfl
@[simp] theorem State.resetEvent_epoch : (s.resetEvent).epoch = s.epoch + 1 := rfl
@[simp] theorem State.resetEvent_rsp : (s.resetEvent).rsp = none := rfl
@[simp] theorem State.resetEvent_events : (s.resetEvent).events = s.events := rfl

end Updates

end Sys2Proof.Machine
end

