-- ==== Sys2Proof/Laws/Buffer.lean ====
section
/-! SUPPORT. The laws of the packet buffer: read after write, frame, the canonical form, equal contents are equal data;
then of the little-endian accesses built on it. -/

namespace Sys2Proof.Machine

/-! The list. -/

@[simp] theorem Buf.get_set_same (m : List Host.Cell) (i : Nat) (b : Byte) : Buf.get (Buf.set m i b) i = some b := by
  induction m with
  | nil => simp [Buf.set, Buf.get]
  | cons c t ih =>
    obtain ⟨a, v⟩ := c
    unfold Buf.set
    split
    · simp [Buf.get]
    · split
      · simp [Buf.get]
      · simp [Buf.get, *]

theorem Buf.get_set_ne (m : List Host.Cell) {i j : Nat} (b : Byte) (h : j ≠ i) :
    Buf.get (Buf.set m i b) j = Buf.get m j := by
  induction m with
  | nil => simp [Buf.set, Buf.get, h]
  | cons c t ih =>
    obtain ⟨a, v⟩ := c
    unfold Buf.set
    split
    · simp [Buf.get, h]
    · split
      · rename_i h1 h2
        simp [Buf.get, h, ← h2]
      · simp [Buf.get, ih]

/-- A write inside the buffer keeps the canonical form. -/
theorem Buf.wfFrom_set {lo i : Nat} {m : List Host.Cell} (b : Byte) (hm : Buf.wfFrom lo m = true) (hlo : lo ≤ i)
    (hi : i < Config.bufBytes) : Buf.wfFrom lo (Buf.set m i b) = true := by
  induction m generalizing lo with
  | nil => simp [Buf.set, Buf.wfFrom, hlo, hi]
  | cons c t ih =>
    obtain ⟨a, v⟩ := c
    simp only [Buf.wfFrom, Bool.and_eq_true, decide_eq_true_eq] at hm
    obtain ⟨⟨h1, h2⟩, h3⟩ := hm
    unfold Buf.set
    split
    · simp only [Buf.wfFrom, Bool.and_eq_true, decide_eq_true_eq]
      exact ⟨⟨hlo, hi⟩, ⟨by omega, h2⟩, h3⟩
    · split
      · rename_i h4 h5
        subst h5
        simp [Buf.wfFrom, h3, hlo, hi]
      · simp only [Buf.wfFrom, Bool.and_eq_true, decide_eq_true_eq]
        exact ⟨⟨h1, h2⟩, ih h3 (by omega)⟩

theorem Buf.get_of_lt {lo j : Nat} {m : List Host.Cell} (hm : Buf.wfFrom lo m = true) (h : j < lo) :
    Buf.get m j = none := by
  induction m generalizing lo with
  | nil => rfl
  | cons c t ih =>
    obtain ⟨a, v⟩ := c
    simp only [Buf.wfFrom, Bool.and_eq_true, decide_eq_true_eq] at hm
    have hne : j ≠ a := by omega
    simp only [Buf.get, hne, if_false]
    exact ih hm.2 (by omega)

/-- Canonical buffers with the same contents are the same list. -/
theorem Buf.ext_of_wfFrom {lo : Nat} {m m' : List Host.Cell} (hm : Buf.wfFrom lo m = true) (hm' : Buf.wfFrom lo m' = true)
    (h : ∀ j, Buf.get m j = Buf.get m' j) : m = m' := by
  induction m generalizing lo m' with
  | nil =>
    cases m' with
    | nil => rfl
    | cons c t =>
      obtain ⟨a, v⟩ := c
      have := h a
      simp [Buf.get] at this
  | cons c t ih =>
    obtain ⟨a, v⟩ := c
    cases m' with
    | nil =>
      have := h a
      simp [Buf.get] at this
    | cons c' t' =>
      obtain ⟨a', v'⟩ := c'
      simp only [Buf.wfFrom, Bool.and_eq_true, decide_eq_true_eq] at hm hm'
      have haa : a = a' := by
        by_contra hne
        rcases Nat.lt_or_gt_of_ne hne with hl | hl
        · have := h a
          rw [Buf.get, if_pos rfl, Buf.get, if_neg (by omega), Buf.get_of_lt hm'.2 (by omega)] at this
          cases this
        · have := h a'
          rw [Buf.get, if_neg (by omega), Buf.get, if_pos rfl, Buf.get_of_lt hm.2 (by omega)] at this
          cases this
      subst haa
      have hv : v = v' := by
        have := h a
        simpa [Buf.get] using this
      have ht : t = t' := by
        refine ih hm.2 hm'.2 fun j => ?_
        by_cases hj : j = a
        · subst hj
          rw [Buf.get_of_lt hm.2 (by omega), Buf.get_of_lt hm'.2 (by omega)]
        · have := h j
          simpa [Buf.get, hj] using this
      rw [hv, ht]

/-! One byte of the state. -/

/-- What a byte reads depends on the written bytes and on the reset only. -/
theorem State.byte_congr {s t : State} (hb : t.buf = s.buf) (he : t.epoch = s.epoch) (j : Nat) :
    t.byte j = s.byte j := by
  simp [State.byte, hb, he]

@[simp] theorem State.byte_setByte_same (s : State) (i : Nat) (b : Byte) : (s.setByte i b).byte i = b := by
  simp [State.byte]

@[simp] theorem State.byte_setByte_ne (s : State) {i j : Nat} (b : Byte) (h : j ≠ i) :
    (s.setByte i b).byte j = s.byte j := by
  simp [State.byte, Buf.get_set_ne _ _ h]

theorem State.byte_setByte (s : State) (i j : Nat) (b : Byte) :
    (s.setByte i b).byte j = if j = i then b else s.byte j := by
  split
  · subst_vars; simp
  · simp [*]

theorem State.wf_setByte {s : State} {i : Nat} (b : Byte) (hs : Memory.wf s.buf = true) (hi : i < Config.bufBytes) :
    Memory.wf (s.setByte i b).buf = true :=
  Buf.wfFrom_set b hs (Nat.zero_le i) hi

@[simp] theorem State.byte_respond (s : State) (v : Word) (j : Nat) : (s.respond v).byte j = s.byte j := rfl
@[simp] theorem State.byte_busErr (s : State) (j : Nat) : s.busErr.byte j = s.byte j := rfl
@[simp] theorem State.byte_refuse (s : State) (j : Nat) : s.refuse.byte j = s.byte j := rfl
@[simp] theorem State.byte_writeStatus (s : State) (v : Word) (j : Nat) : (s.writeStatus v).byte j = s.byte j := rfl
@[simp] theorem State.byte_issue (s : State) (v : Word) (j : Nat) : (s.issue v).byte j = s.byte j := rfl
@[simp] theorem State.byte_raiseError (s : State) (e : ErrCode) (j : Nat) : (s.raiseError e).byte j = s.byte j := rfl
@[simp] theorem State.byte_finish (s : State) (j : Nat) : s.finish.byte j = s.byte j := rfl

/-- After a reset every byte is a free value, drawn at that reset (70_reset_and_hazards.md R161). -/
@[simp] theorem State.byte_resetEvent (s : State) (j : Nat) :
    s.resetEvent.byte j = Config.freeByte (s.epoch + 1) j := rfl

/-! States that differ in the buffer alone. -/

/-- `t` is `s` with another buffer. -/
def State.BufOnly (s t : State) : Prop := t = { s with buf := t.buf }

theorem State.BufOnly.refl (s : State) : s.BufOnly s := rfl

theorem State.BufOnly.trans {s t u : State} (h1 : s.BufOnly t) (h2 : t.BufOnly u) : s.BufOnly u := by
  unfold State.BufOnly at *
  rw [h2, h1]

theorem State.bufOnly_setByte (s : State) (i : Nat) (b : Byte) : s.BufOnly (s.setByte i b) := rfl

/-! Little-endian accesses. -/

theorem State.bufOnly_writeLE (s : State) (i : Nat) (v : Word) (n : Nat) : s.BufOnly (State.writeLE i v n s) := by
  induction n with
  | zero => exact .refl s
  | succ n ih => exact ih.trans (State.bufOnly_setByte _ _ _)

/-- A little-endian write sets its n bytes and leaves every other byte alone (20_memory.md R68). -/
theorem State.byte_writeLE (s : State) (i : Nat) (v : Word) (n j : Nat) :
    (State.writeLE i v n s).byte j = if i ≤ j ∧ j < i + n then byteOf v (j - i) else s.byte j := by
  induction n with
  | zero => rw [if_neg (by omega)]; rfl
  | succ n ih =>
    rw [State.writeLE, State.byte_setByte, ih]
    by_cases hj : j = i + n
    · subst hj
      rw [if_pos rfl, if_pos (by omega), Nat.add_sub_cancel_left]
    · rw [if_neg hj]
      by_cases h : i ≤ j ∧ j < i + n
      · rw [if_pos h, if_pos (by omega)]
      · rw [if_neg h, if_neg (by omega)]

theorem State.wf_writeLE {s : State} {i n : Nat} (v : Word) (hs : Memory.wf s.buf = true)
    (hi : i + n ≤ Config.bufBytes) : Memory.wf (State.writeLE i v n s).buf = true := by
  induction n with
  | zero => exact hs
  | succ n ih => exact State.wf_setByte _ (ih (by omega)) (by omega)

/-- A little-endian read depends on its n bytes only. -/
theorem State.readLE_congr {s t : State} {i n : Nat} (h : ∀ j, i ≤ j → j < i + n → t.byte j = s.byte j) :
    t.readLE i n = s.readLE i n := by
  induction n with
  | zero => rfl
  | succ n ih =>
    rw [State.readLE, State.readLE, ih fun j h1 h2 => h j h1 (by omega), h (i + n) (by omega) (by omega)]

theorem State.readLE_lt (s : State) (i n : Nat) : s.readLE i n < 2 ^ (8 * n) := by
  induction n with
  | zero => simp [State.readLE]
  | succ n ih =>
    have hb := (s.byte (i + n)).isLt
    rw [State.readLE, Nat.shiftLeft_eq]
    have he : 2 ^ (8 * (n + 1)) = 2 ^ (8 * n) * 256 := by rw [Nat.mul_add, Nat.pow_add]
    rw [he]
    have : (s.byte (i + n)).toNat * 2 ^ (8 * n) ≤ 255 * 2 ^ (8 * n) := Nat.mul_le_mul_right _ (by omega)
    omega

end Sys2Proof.Machine
end

