-- ==== Sys2Proof/Laws/Checksum.lean ====
section
/-! SUPPORT. The laws of the accumulator and of the checksum field. -/

namespace Sys2Proof.Machine

/-! The accumulator. -/

theorem wordAt_eq (rd : Nat → Byte) (k : Nat) :
    wordAt rd k = (rd (2 * k)).toNat + 256 * (rd (2 * k + 1)).toNat := by
  have h := (rd (2 * k)).isLt
  rw [wordAt, BitVec.toNat_append, Nat.shiftLeft_eq, Nat.mul_comm,
    ← Nat.two_pow_add_eq_or_of_lt (by simpa using h)]
  omega

/-- The words are the even bytes and 256 times the odd bytes. -/
theorem sumWords_eq_byteSum (rd : Nat → Byte) (m : Nat) : sumWords rd m = byteSum rd (2 * m) := by
  induction m with
  | zero => rfl
  | succ m ih =>
    rw [sumWords, ih, wordAt_eq, byteSum, byteSum, show 2 * (m + 1) = 2 * m + 1 + 1 by ring,
      Finset.sum_range_succ, Finset.sum_range_succ]
    have h0 : 2 * m % 2 = 0 := by omega
    have h1 : (2 * m + 1) % 2 = 1 := by omega
    rw [h0, h1]
    ring

/-- The loop of 40_checksum.md R101 is the weighted sum of the bytes. -/
theorem sumBytes_eq_byteSum (rd : Nat → Byte) (n : Nat) : sumBytes rd n = byteSum rd n := by
  rw [sumBytes, sumWords_eq_byteSum]
  by_cases h : n % 2 = 1
  · have hn : n = 2 * (n / 2) + 1 := by omega
    rw [if_pos h]
    conv_rhs => rw [hn, byteSum, Finset.sum_range_succ]
    have h0 : 2 * (n / 2) % 2 = 0 := by omega
    have h1 : n - 1 = 2 * (n / 2) := by omega
    rw [h0, h1, byteSum, Nat.pow_zero, Nat.mul_one]
  · have hn : 2 * (n / 2) = n := by omega
    rw [if_neg h, hn, Nat.add_zero]

/-- The sum depends on bytes 0 to n-1 only. -/
theorem sumBytes_congr {rd rd' : Nat → Byte} {n : Nat} (h : ∀ i < n, rd i = rd' i) : sumBytes rd n = sumBytes rd' n := by
  rw [sumBytes_eq_byteSum, sumBytes_eq_byteSum]
  exact Finset.sum_congr rfl fun i hi => by rw [h i (Finset.mem_range.mp hi)]

theorem acc32_congr {rd rd' : Nat → Byte} {n : Nat} (h : ∀ i < n, rd i = rd' i) : acc32 rd n = acc32 rd' n := by
  rw [acc32, acc32, sumBytes_congr h]

/-! The fold. -/

/-- One round of the loop keeps the value modulo 0xFFFF. -/
theorem foldRound_eq (s : Nat) : (s &&& 0xFFFF) + (s >>> 16) = s % 0x10000 + s / 0x10000 := by
  rw [Nat.shiftRight_eq_div_pow, show 0xFFFF = 2 ^ 16 - 1 from rfl, Nat.and_two_pow_sub_one_eq_mod]

theorem foldLoop_of_le {s : Nat} (fuel : Nat) (h : s ≤ 0xFFFF) : foldLoop fuel s = s := by
  cases fuel with
  | zero => rfl
  | succ n => rw [foldLoop, if_neg (by omega)]

theorem foldLoop_succ_of_gt {s : Nat} (fuel : Nat) (h : 0xFFFF < s) :
    foldLoop (fuel + 1) s = foldLoop fuel (s % 0x10000 + s / 0x10000) := by
  rw [foldLoop, if_pos h, foldRound_eq]

/-! The checksum field. -/

theorem State.bufOnly_zeroField (s : State) (off : Nat) : s.BufOnly (s.zeroField off) := rfl

theorem State.bufOnly_storeField (s : State) (off : Nat) (c : Half) : s.BufOnly (s.storeField off c) := rfl

theorem State.byte_zeroField (s : State) (off j : Nat) :
    (s.zeroField off).byte j = if j = off ∨ j = off + 1 then 0 else s.byte j := by
  rw [State.zeroField, State.byte_setByte, State.byte_setByte]
  by_cases h1 : j = off + 1 <;> by_cases h2 : j = off <;> simp [h1, h2]

theorem State.byte_storeField (s : State) (off j : Nat) (c : Half) :
    (s.storeField off c).byte j = if j = off then byteOf c 0 else if j = off + 1 then byteOf c 1 else s.byte j := by
  rw [State.storeField, State.byte_setByte, State.byte_setByte]
  by_cases h1 : j = off + 1
  · have : j ≠ off := by omega
    simp [h1]
  · simp [h1]

theorem State.wf_zeroField {s : State} {off : Nat} (hs : Memory.wf s.buf = true) (h : off + 2 ≤ Config.bufBytes) :
    Memory.wf (s.zeroField off).buf = true :=
  State.wf_setByte _ (State.wf_setByte _ hs (by omega)) (by omega)

theorem State.wf_storeField {s : State} {off : Nat} (c : Half) (hs : Memory.wf s.buf = true)
    (h : off + 2 ≤ Config.bufBytes) : Memory.wf (s.storeField off c).buf = true :=
  State.wf_setByte _ (State.wf_setByte _ hs (by omega)) (by omega)

/-! Inserting the checksum: everything it can do. -/

/-- The accumulator the insertion computes: the field counts as zero. -/
theorem State.acc_insertChecksum (s : State) (n off : Nat) :
    (s.insertChecksum n off).acc = acc32 (s.zeroField off).byte n := rfl

theorem State.ck_insertChecksum (s : State) (n off : Nat) :
    (s.insertChecksum n off).ck = checksumOf (s.insertChecksum n off).acc := rfl

theorem State.rawLen_insertChecksum (s : State) (n off : Nat) :
    (s.insertChecksum n off).rawLen = BitVec.ofNat 32 n := rfl

theorem State.byte_insertChecksum (s : State) (n off j : Nat) :
    (s.insertChecksum n off).byte j =
      if j = off then byteOf (s.insertChecksum n off).ck 0
      else if j = off + 1 then byteOf (s.insertChecksum n off).ck 1 else s.byte j :=
  State.byte_storeField s off j _

/-- It changes the buffer and the result registers only. -/
theorem State.insertChecksum_frame (s : State) (n off : Nat) :
    s.insertChecksum n off =
      { s with
        buf := (s.insertChecksum n off).buf
        ck := (s.insertChecksum n off).ck
        acc := (s.insertChecksum n off).acc
        rawLen := (s.insertChecksum n off).rawLen } := rfl

theorem State.wf_insertChecksum {s : State} {off : Nat} (n : Nat) (hs : Memory.wf s.buf = true)
    (h : off + 2 ≤ Config.bufBytes) : Memory.wf (s.insertChecksum n off).buf = true :=
  State.wf_storeField _ hs h

/-! The checks of CKSUM. -/

theorem State.cksum_of_check {s : State} {e : ErrCode} (h : cksumCheck s.cksumOperands = some e) :
    s.cksum = .error e := by
  rw [State.cksum, h]

theorem State.cksum_of_pass {s : State} (h : cksumCheck s.cksumOperands = none) :
    s.cksum = .ok (s.insertChecksum s.len.toNat s.offset.toNat) := by
  rw [State.cksum, h]; rfl

/-- CKSUM runs exactly when its three bounds hold (40_checksum.md R103). -/
theorem cksumCheck_eq_none {o : CksumOperands} :
    cksumCheck o = none ↔ 2 ≤ o.n ∧ o.off + 2 ≤ o.n ∧ o.n ≤ Config.bufBytes := by
  unfold cksumCheck
  split
  · simp; omega
  · split
    · simp; omega
    · simp; omega

end Sys2Proof.Machine
end

