-- ==== Sys2Proof/Laws/Builder.lean ====
section
/-! SUPPORT. The laws of the packet builder's operations. -/

namespace Sys2Proof.Machine

/-! BUILD_CORE. -/

theorem State.buildCore_of_gt {s : State} {type code : Byte} {plen : Nat} (h : Config.bufBytes - 4 < plen) :
    s.buildCore type code plen = .error .lengthRange := by
  rw [State.buildCore, if_pos h]

theorem State.buildCore_of_le {s : State} {type code : Byte} {plen : Nat} (h : plen ≤ Config.bufBytes - 4) :
    s.buildCore type code plen = .ok (((s.setByte 0 type).setByte 1 code).insertChecksum (4 + plen) 2) := by
  rw [State.buildCore, if_neg (by omega)]

/-! ECHO_BODY. -/

theorem State.bufOnly_putIdSeq (s : State) (ident seq : Half) : s.BufOnly (s.putIdSeq ident seq) := rfl

theorem State.byte_putIdSeq (s : State) (ident seq : Half) (j : Nat) :
    (s.putIdSeq ident seq).byte j =
      if j = 4 then byteOf ident 1
      else if j = 5 then byteOf ident 0
      else if j = 6 then byteOf seq 1
      else if j = 7 then byteOf seq 0 else s.byte j := by
  simp only [State.putIdSeq, State.byte_setByte]
  by_cases h4 : j = 4
  · simp [h4]
  by_cases h5 : j = 5
  · simp [h5]
  by_cases h6 : j = 6
  · simp [h6]
  simp [h4, h5, h6]

theorem State.bufOnly_fill (k m : Nat) (s : State) : s.BufOnly (State.fill k m s) := by
  induction m with
  | zero => exact .refl s
  | succ m ih => exact ih.trans (State.bufOnly_setByte _ _ _)

/-- The filler: PATTERN repeated from BUF[8] on, every other byte left alone (41_builder.md R117). -/
theorem State.byte_fill (k m : Nat) (s : State) (j : Nat) :
    (State.fill k m s).byte j = if 8 ≤ j ∧ j < 8 + m then s.patternByte ((j - 8) % k) else s.byte j := by
  induction m with
  | zero => rw [if_neg (by omega)]; rfl
  | succ m ih =>
    rw [State.fill, State.byte_setByte, ih]
    by_cases hj : j = 8 + m
    · subst hj
      rw [if_pos rfl, if_pos (by omega), Nat.add_sub_cancel_left]
    · rw [if_neg hj]
      by_cases h : 8 ≤ j ∧ j < 8 + m
      · rw [if_pos h, if_pos (by omega)]
      · rw [if_neg h, if_neg (by omega)]

theorem State.wf_putIdSeq {s : State} (ident seq : Half) (hs : Memory.wf s.buf = true) :
    Memory.wf (s.putIdSeq ident seq).buf = true := by
  have hb : 8 ≤ Config.bufBytes := by decide
  exact State.wf_setByte _ (State.wf_setByte _ (State.wf_setByte _ (State.wf_setByte _ hs (by omega)) (by omega))
    (by omega)) (by omega)

theorem State.wf_fill {s : State} {k m : Nat} (hs : Memory.wf s.buf = true) (h : 8 + m ≤ Config.bufBytes) :
    Memory.wf (State.fill k m s).buf = true := by
  induction m with
  | zero => exact hs
  | succ m ih => exact State.wf_setByte _ (ih (by omega)) (by omega)

/-- ECHO passes its checks exactly under these bounds (41_builder.md R117). -/
theorem echoCheck_eq_none {o : EchoOperands} :
    echoCheck o = none ↔
      8 ≤ o.len ∧ o.len ≤ Config.bufBytes ∧ (8 < o.len → 1 ≤ o.patLen ∧ o.patLen ≤ Config.patMax) := by
  unfold echoCheck
  split
  · simp; omega
  · split
    · simp; omega
    · split
      · simp; omega
      · split
        · simp; omega
        · simp; omega

theorem State.echo_of_check {s : State} {type : Byte} {e : ErrCode} (h : echoCheck s.echoOperands = some e) :
    s.echo type = .error e := by
  simp [State.echo, State.echoBody, h]

/-- An echo that passes its checks builds its packet (41_builder.md R114: BUILD_CORE cannot raise there). -/
theorem State.echo_of_pass {s : State} {type : Byte} (h : echoCheck s.echoOperands = none) :
    s.echo type =
      .ok (((((s.putIdSeq s.ident s.seq).fill s.patLen.toNat (s.len.toNat - 8)).setByte 0 type).setByte 1 0).insertChecksum
        (4 + (s.len.toNat - 4)) 2) := by
  have hl := (echoCheck_eq_none.mp h).2.1
  simp only [State.echoOperands] at hl
  rw [State.echo, State.echoBody, h]
  exact State.buildCore_of_le (by simp only [State.echoOperands]; omega)

end Sys2Proof.Machine
end

