-- ==== Sys2Proof/Laws/Bus.lean ====
section
/-! SUPPORT. The laws of the host bus: what an address names, and everything a transaction can do. -/

namespace Sys2Proof.Machine

/-! What an address names (42_host_bus.md R125). -/

/-- A classified buffer access lies inside the buffer. -/
theorem classify_buf_bound {n i : Nat} {addr : Addr} (h : classify n addr = .buf i) : i + n ≤ Config.bufBytes := by
  have hlt := addr.isLt
  have hb : Config.bufBytes = 65536 := rfl
  unfold classify at h
  split at h
  · cases h
  · split at h
    · split at h <;> cases h
    · split at h
      · split at h
        · cases h
        · rename_i hn _ hw hm
          injection h with h
          have hn' : n = 1 ∨ n = 2 ∨ n = 4 := by omega
          rcases hn' with rfl | rfl | rfl <;> omega
      · cases h

/-- An aligned access of 1, 2 or 4 bytes inside the buffer window names its buffer byte. -/
theorem classify_buf {n i : Nat} {addr : Addr} (hn : n = 1 ∨ n = 2 ∨ n = 4) (ha : addr.toNat = 0x10000 + i)
    (hi : i < Config.bufBytes) (hm : i % n = 0) : classify n addr = .buf i := by
  unfold classify
  rw [if_neg (by omega), if_neg (by omega), if_pos (by omega), if_neg, ha, Nat.add_sub_cancel_left]
  rw [ha]
  rcases hn with rfl | rfl | rfl <;> omega

/-- An aligned 32-bit access to the register window names a register. -/
theorem classify_reg {addr : Addr} (hw : addr.toNat ≤ 0xFFF) (hm : addr.toNat % 4 = 0) :
    classify 4 addr = .reg (regAt addr.toNat) := by
  unfold classify
  rw [if_neg (by omega), if_pos hw, if_neg (by omega)]

/-- A register of the map stands at one of its offsets. -/
theorem mem_regMap {o : Nat} {r : Reg} (h : regMap.lookup o = some r) : (o, r) ∈ regMap := by
  obtain ⟨l₁, l₂, hl, -⟩ := List.lookup_eq_some_iff.mp h
  rw [hl]
  simp

/-- The offsets the map does not name. -/
theorem regAt_of_not_mem {o : Nat} (h : ∀ r, (o, r) ∉ regMap) : regAt o = patternRegAt o := by
  unfold regAt
  cases hl : regMap.lookup o with
  | none => rfl
  | some r => exact absurd (mem_regMap hl) (h r)

/-- PAT<j> stands at offset 0x040 + 4j (10_state.md R35). -/
theorem regAt_pat {j : Nat} (hj : j < Config.patRegs) : regAt (0x040 + 4 * j) = .pat ⟨j, hj⟩ := by
  have h : 0x040 ≤ 0x040 + 4 * j ∧ (0x040 + 4 * j - 0x040) / 4 < Config.patRegs := by omega
  rw [regAt_of_not_mem (by intro r hr; simp [regMap] at hr; omega), patternRegAt, dif_pos h]
  congr 2
  omega

/-- The offsets the map does not list (42_host_bus.md R137). -/
theorem regAt_unlisted {o : Nat} (h4 : o % 4 = 0) (h : o = 0x038 ∨ o = 0x03C ∨ 0x040 + Config.patMax ≤ o) :
    regAt o = .unlisted := by
  have h1 : Config.patRegs = Config.patMax / 4 := rfl
  have h2 : 4 ≤ Config.patMax := by decide
  rw [regAt_of_not_mem (by intro r hr; simp [regMap] at hr; omega), patternRegAt, dif_neg (by omega)]

/-- A register that is neither a pattern register nor unlisted stands at its one offset (10_state.md R23). -/
theorem regAt_eq {o : Nat} {r : Reg} (h : regAt o = r) (hp : ∀ j, r ≠ .pat j) (hu : r ≠ .unlisted) :
    (o, r) ∈ regMap := by
  unfold regAt at h
  cases hl : regMap.lookup o with
  | some q =>
    rw [hl] at h
    subst h
    exact mem_regMap hl
  | none =>
    rw [hl] at h
    change patternRegAt o = r at h
    by_cases hc : 0x040 ≤ o ∧ (o - 0x040) / 4 < Config.patRegs
    · rw [patternRegAt, dif_pos hc] at h
      exact absurd h.symm (hp _)
    · rw [patternRegAt, dif_neg hc] at h
      exact absurd h.symm hu

theorem regAt_eq_ctrl {o : Nat} (h : regAt o = .ctrl) : o = 0x00C := by
  simpa [regMap] using regAt_eq h (by simp) (by simp)

theorem regAt_eq_status {o : Nat} (h : regAt o = .status) : o = 0x010 := by
  simpa [regMap] using regAt_eq h (by simp) (by simp)

theorem regAt_eq_cmd {o : Nat} (h : regAt o = .cmd) : o = 0x014 := by
  simpa [regMap] using regAt_eq h (by simp) (by simp)

/-- An access that names a register lies in the register window and names the register at its offset. -/
theorem classify_reg_eq {n : Nat} {addr : Addr} {r : Reg} (h : classify n addr = .reg r) :
    addr.toNat ≤ 0xFFF ∧ addr.toNat % 4 = 0 ∧ r = regAt addr.toNat := by
  unfold classify at h
  split at h
  · cases h
  · split at h
    · split at h
      · cases h
      · rename_i hw hm
        injection h with h
        exact ⟨hw, by omega, h.symm⟩
    · split at h
      · split at h <;> cases h
      · cases h

/-- Only a 4-byte access can name a register. -/
theorem classify_reg_width {n : Nat} {addr : Addr} {r : Reg} (h : classify n addr = .reg r) : n = 4 := by
  unfold classify at h
  split at h
  · cases h
  · split at h
    · split at h
      · cases h
      · omega
    · split at h
      · split at h <;> cases h
      · cases h

/-! What a transaction can do. -/

/-- Everything a read can do. -/
theorem busRead_cases (n : Nat) (addr : Addr) (s : State) :
    (busRead n addr s = s.busErr ∧ classify n addr = .bad) ∨
    (∃ r, busRead n addr s = s.respond (regRead r s) ∧ classify n addr = .reg r) ∨
    (∃ i, busRead n addr s = s.refuse ∧ classify n addr = .buf i ∧ s.busy = true) ∨
    (∃ i, busRead n addr s = s.respond (BitVec.ofNat 32 (s.readLE i n)) ∧ classify n addr = .buf i ∧ s.busy = false) := by
  unfold busRead
  cases h : classify n addr with
  | bad => exact .inl ⟨rfl, rfl⟩
  | reg r => exact .inr (.inl ⟨r, rfl, rfl⟩)
  | buf i =>
    cases hb : s.busy with
    | true => exact .inr (.inr (.inl ⟨i, rfl, rfl, rfl⟩))
    | false => exact .inr (.inr (.inr ⟨i, rfl, rfl, rfl⟩))

/-- Everything a write can do. -/
theorem busWrite_cases (n : Nat) (addr : Addr) (v : Word) (s : State) :
    (busWrite n addr v s = s.busErr ∧ classify n addr = .bad) ∨
    (busWrite n addr v s = s.refuse ∧ s.busy = true ∧
      ((∃ r, classify n addr = .reg r ∧ r.locked = true) ∨ ∃ i, classify n addr = .buf i)) ∨
    (∃ r, busWrite n addr v s = (regWrite r v s).respond 0 ∧ classify n addr = .reg r ∧
      (s.busy && r.locked) = false) ∨
    (∃ i, busWrite n addr v s = (State.writeLE i v n s).respond 0 ∧ classify n addr = .buf i ∧ s.busy = false) := by
  unfold busWrite
  cases h : classify n addr with
  | bad => exact .inl ⟨rfl, rfl⟩
  | reg r =>
    cases hb : (s.busy && r.locked) with
    | true =>
      rw [Bool.and_eq_true] at hb
      exact .inr (.inl ⟨by simp [hb], hb.1, .inl ⟨r, rfl, hb.2⟩⟩)
    | false => exact .inr (.inr (.inl ⟨r, if_neg (by rw [hb]; decide), rfl, hb⟩))
  | buf i =>
    cases hb : s.busy with
    | true => exact .inr (.inl ⟨rfl, rfl, .inr ⟨i, rfl⟩⟩)
    | false => exact .inr (.inr (.inr ⟨i, rfl, rfl, rfl⟩))

/-! What a register write leaves alone (42_host_bus.md R135). -/

theorem regWrite_frame (r : Reg) (v : Word) (s : State) :
    (regWrite r v s).buf = s.buf ∧ (regWrite r v s).epoch = s.epoch ∧ (regWrite r v s).events = s.events ∧
    (regWrite r v s).ck = s.ck ∧ (regWrite r v s).acc = s.acc ∧ (regWrite r v s).rawLen = s.rawLen ∧
    (regWrite r v s).rsp = s.rsp := by
  cases r <;> exact ⟨rfl, rfl, rfl, rfl, rfl, rfl, rfl⟩

/-- Only a write of CMD touches the pending command and ERRCODE. -/
theorem regWrite_pending {r : Reg} (v : Word) (s : State) (h : r ≠ .cmd) :
    (regWrite r v s).pending = s.pending ∧ (regWrite r v s).err = s.err := by
  cases r <;> first | exact ⟨rfl, rfl⟩ | exact absurd rfl h

/-- A write of a register outside the lock leaves every operand register alone. -/
theorem regWrite_operands {r : Reg} (v : Word) (s : State) (h : r.locked = false) :
    s.SameOperands (regWrite r v s) := by
  cases r <;> first | exact ⟨rfl, rfl, rfl, rfl, rfl, rfl, rfl, rfl⟩ | cases h

end Sys2Proof.Machine
end

