-- ==== Sys2Proof/Laws/PerInstr.lean ====
section
/-! SUPPORT. The family OpcodeRow: every instruction's encoding carries the fixed bits of its row of
spec/opcode_table.json (30_encoding.md R98), one lemma per constructor. -/

namespace Sys2Proof.Laws.OpcodeRow

/-- The row's match and mask for a CMD row. -/
def cmdRow : Instr → Option (Word × Word)
  | .cksum => some (0x00000001#32, 0xFFFFFFFF#32)
  | .build4 => some (0x00000002#32, 0xFFFFFFFF#32)
  | .build6 => some (0x00000012#32, 0xFFFFFFFF#32)
  | .echo4 => some (0x00000003#32, 0xFFFFFFFF#32)
  | .echo6 => some (0x00000013#32, 0xFFFFFFFF#32)
  | .rd8 _ | .rd16 _ | .rd32 _ | .wr8 _ _ | .wr16 _ _ | .wr32 _ _ => none

/-- The row's 3-bit encoding for a BUS row: `req_we`, then the two bits of `req_size`. -/
def busRow : Instr → Option (BitVec 3)
  | .rd8 _ => some 0b000#3
  | .rd16 _ => some 0b001#3
  | .rd32 _ => some 0b010#3
  | .wr8 _ _ => some 0b100#3
  | .wr16 _ _ => some 0b101#3
  | .wr32 _ _ => some 0b110#3
  | .cksum | .build4 | .build6 | .echo4 | .echo6 => none

/-- The encoding carries the row's fixed bits. -/
def Statement (i : Instr) : Prop :=
  match encode i with
  | .cmd w => ∃ m k, cmdRow i = some (m, k) ∧ w &&& k = m
  | .bus r => busRow i = some (BitVec.ofBool r.we ++ r.size)

theorem cksum : Statement .cksum := ⟨_, _, rfl, by decide⟩
theorem build4 : Statement .build4 := ⟨_, _, rfl, by decide⟩
theorem build6 : Statement .build6 := ⟨_, _, rfl, by decide⟩
theorem echo4 : Statement .echo4 := ⟨_, _, rfl, by decide⟩
theorem echo6 : Statement .echo6 := ⟨_, _, rfl, by decide⟩
theorem rd8 (addr : Addr) : Statement (.rd8 addr) := by simp [Statement, encode, busRow]
theorem rd16 (addr : Addr) : Statement (.rd16 addr) := by simp [Statement, encode, busRow]
theorem rd32 (addr : Addr) : Statement (.rd32 addr) := by simp [Statement, encode, busRow]
theorem wr8 (addr : Addr) (wdata : Word) : Statement (.wr8 addr wdata) := by simp [Statement, encode, busRow]
theorem wr16 (addr : Addr) (wdata : Word) : Statement (.wr16 addr wdata) := by simp [Statement, encode, busRow]
theorem wr32 (addr : Addr) (wdata : Word) : Statement (.wr32 addr wdata) := by simp [Statement, encode, busRow]

end Sys2Proof.Laws.OpcodeRow
end

