-- ==== Sys2Proof/Laws/Step.lean ====
section
/-! SUPPORT. What exec and step can do, one inversion lemma each. -/

namespace Sys2Proof.Machine

/-! What one instruction does. -/

theorem exec_cksum (s : State) : exec .cksum s = .next (s.complete s.cksum) := rfl
theorem exec_build4 (s : State) :
    exec .build4 s = .next (s.complete (s.buildCore s.msgType s.msgCode s.len.toNat)) := rfl
theorem exec_build6 (s : State) :
    exec .build6 s = .next (s.complete (s.buildCore s.msgType s.msgCode s.len.toNat)) := rfl
theorem exec_echo4 (s : State) : exec .echo4 s = .next (s.complete (s.echo 8)) := rfl
theorem exec_echo6 (s : State) : exec .echo6 s = .next (s.complete (s.echo 128)) := rfl
theorem exec_rd8 (a : Addr) (s : State) : exec (.rd8 a) s = .next (busRead 1 a s) := rfl
theorem exec_rd16 (a : Addr) (s : State) : exec (.rd16 a) s = .next (busRead 2 a s) := rfl
theorem exec_rd32 (a : Addr) (s : State) : exec (.rd32 a) s = .next (busRead 4 a s) := rfl
theorem exec_wr8 (a : Addr) (v : Word) (s : State) : exec (.wr8 a v) s = .next (busWrite 1 a v s) := rfl
theorem exec_wr16 (a : Addr) (v : Word) (s : State) : exec (.wr16 a v) s = .next (busWrite 2 a v s) := rfl
theorem exec_wr32 (a : Addr) (v : Word) (s : State) : exec (.wr32 a v) s = .next (busWrite 4 a v s) := rfl

/-- What a command's rule can make of a state: an error, or a checksum inserted at an offset inside a length inside
the buffer, after buffer writes below that length. -/
inductive CommandResult (s : State) : Except ErrCode State → Prop where
  | failed (e : ErrCode) (he : e ≠ .noError) : CommandResult s (.error e)
  | built (u : State) (n off : Nat) (hu : s.BufOnly u) (hwf : Memory.wf s.buf = true → Memory.wf u.buf = true)
      (hframe : ∀ j, n ≤ j → u.byte j = s.byte j) (hoff : off + 2 ≤ n) (hn : n ≤ Config.bufBytes) :
      CommandResult s (.ok (u.insertChecksum n off))

theorem State.cksum_result (s : State) : CommandResult s s.cksum := by
  cases h : cksumCheck s.cksumOperands with
  | some e =>
    rw [State.cksum_of_check h]
    refine .failed e fun he => ?_
    subst he
    unfold cksumCheck at h
    split at h
    · cases h
    · split at h <;> cases h
  | none =>
    rw [State.cksum_of_pass h]
    obtain ⟨-, h2, h3⟩ := cksumCheck_eq_none.mp h
    exact .built s _ _ (.refl s) id (fun _ _ => rfl) h2 h3

/-- A built header is two buffer writes below n. -/
theorem State.header_result {s u : State} (type code : Byte) {n : Nat} (hu : s.BufOnly u)
    (hwf : Memory.wf s.buf = true → Memory.wf u.buf = true) (hframe : ∀ j, n ≤ j → u.byte j = s.byte j)
    (h4 : 4 ≤ n) (hn : n ≤ Config.bufBytes) :
    CommandResult s (.ok (((u.setByte 0 type).setByte 1 code).insertChecksum n 2)) := by
  refine .built _ n 2 ((hu.trans (State.bufOnly_setByte _ _ _)).trans (State.bufOnly_setByte _ _ _))
    (fun h => State.wf_setByte _ (State.wf_setByte _ (hwf h) (by omega)) (by omega)) (fun j hj => ?_) h4 hn
  rw [State.byte_setByte_ne _ _ (by omega), State.byte_setByte_ne _ _ (by omega), hframe j hj]

theorem State.buildCore_result (s : State) (type code : Byte) (plen : Nat) :
    CommandResult s (s.buildCore type code plen) := by
  by_cases h : plen ≤ Config.bufBytes - 4
  · rw [State.buildCore_of_le h]
    have hb : 4 ≤ Config.bufBytes := by decide
    exact State.header_result type code (.refl s) id (fun _ _ => rfl) (by omega) (by omega)
  · rw [State.buildCore_of_gt (by omega)]
    exact .failed _ (by decide)

theorem State.echo_result (s : State) (type : Byte) : CommandResult s (s.echo type) := by
  cases h : echoCheck s.echoOperands with
  | some e =>
    rw [State.echo_of_check h]
    refine .failed e fun he => ?_
    subst he
    unfold echoCheck at h
    split at h
    · cases h
    · split at h
      · cases h
      · split at h
        · cases h
        · split at h <;> cases h
  | none =>
    rw [State.echo_of_pass h]
    obtain ⟨h1, h2, -⟩ := echoCheck_eq_none.mp h
    simp only [State.echoOperands] at h1 h2
    refine State.header_result type 0 ((State.bufOnly_putIdSeq s _ _).trans (State.bufOnly_fill _ _ _))
      (fun hwf => State.wf_fill (State.wf_putIdSeq _ _ hwf) (by omega)) (fun j hj => ?_) (by omega) (by omega)
    rw [State.byte_fill, if_neg (by omega), State.byte_putIdSeq]
    have : ¬ j = 4 ∧ ¬ j = 5 ∧ ¬ j = 6 ∧ ¬ j = 7 := by omega
    simp [this]

/-- A command is the completion of its rule's result. -/
theorem exec_command {i : Instr} (s : State) (hi : i.isCommand = true) :
    ∃ r, CommandResult s r ∧ exec i s = .next (s.complete r) := by
  cases i with
  | cksum => exact ⟨_, s.cksum_result, exec_cksum s⟩
  | build4 => exact ⟨_, s.buildCore_result _ _ _, exec_build4 s⟩
  | build6 => exact ⟨_, s.buildCore_result _ _ _, exec_build6 s⟩
  | echo4 => exact ⟨_, s.echo_result _, exec_echo4 s⟩
  | echo6 => exact ⟨_, s.echo_result _, exec_echo6 s⟩
  | rd8 _ => cases hi
  | rd16 _ => cases hi
  | rd32 _ => cases hi
  | wr8 _ _ => cases hi
  | wr16 _ _ => cases hi
  | wr32 _ _ => cases hi

@[simp] theorem State.complete_ok (s t : State) : s.complete (.ok t) = t.finish := rfl
@[simp] theorem State.complete_error (s : State) (e : ErrCode) : s.complete (.error e) = s.raiseError e := rfl

/-- Inserting a checksum into `s` with another buffer, and completing, is a success from `s`. -/
theorem State.succeeded_insertChecksum {s u : State} (n off : Nat) (hu : s.BufOnly u) :
    s.Succeeded (u.insertChecksum n off).finish := by
  unfold State.Succeeded
  rw [hu]
  rfl

/-- What every completion does, whatever its result. -/
theorem State.complete_frame {s : State} {r : Except ErrCode State} (hr : CommandResult s r) :
    (s.complete r).pending = none ∧ (s.complete r).done = true ∧ s.SameOperands (s.complete r) ∧
    (s.complete r).ovr = s.ovr ∧ (s.complete r).ie = s.ie ∧ (s.complete r).epoch = s.epoch ∧
    (s.complete r).rsp = s.rsp ∧ (s.complete r).events = s.events := by
  cases hr with
  | failed e he => exact ⟨rfl, rfl, ⟨rfl, rfl, rfl, rfl, rfl, rfl, rfl, rfl⟩, rfl, rfl, rfl, rfl, rfl⟩
  | built u n off hu =>
    rw [State.complete_ok, hu]
    exact ⟨rfl, rfl, ⟨rfl, rfl, rfl, rfl, rfl, rfl, rfl, rfl⟩, rfl, rfl, rfl, rfl, rfl⟩

/-- What a transaction can do: answer, refuse, write one register, or write buffer bytes. -/
inductive TransactionResult (i : Instr) (s : State) : State → Prop where
  | answered (v : Word) : TransactionResult i s (s.respond v)
  | bad : TransactionResult i s s.busErr
  | refused (hb : s.busy = true) : TransactionResult i s s.refuse
  | wroteReg (a : Addr) (v : Word) (r : Reg) (hi : i = .wr32 a v) (hr : classify 4 a = .reg r)
      (hl : (s.busy && r.locked) = false) : TransactionResult i s ((regWrite r v s).respond 0)
  | wroteBuf (n k : Nat) (v : Word) (hk : k + n ≤ Config.bufBytes) (hb : s.busy = false) :
      TransactionResult i s ((State.writeLE k v n s).respond 0)

theorem busRead_result (i : Instr) (n : Nat) (a : Addr) (s : State) : TransactionResult i s (busRead n a s) := by
  rcases busRead_cases n a s with ⟨h, -⟩ | ⟨r, h, -⟩ | ⟨k, h, -, hb⟩ | ⟨k, h, -, -⟩ <;> rw [h]
  · exact .bad
  · exact .answered _
  · exact .refused hb
  · exact .answered _

theorem busWrite_result (i : Instr) (n : Nat) (a : Addr) (v : Word) (s : State) (hi : n = 4 → i = .wr32 a v) :
    TransactionResult i s (busWrite n a v s) := by
  rcases busWrite_cases n a v s with ⟨h, -⟩ | ⟨h, hb, -⟩ | ⟨r, h, hc, hl⟩ | ⟨k, h, hc, hb⟩ <;> rw [h]
  · exact .bad
  · exact .refused hb
  · have hn := classify_reg_width hc
    subst hn
    exact .wroteReg a v r (hi rfl) hc hl
  · exact .wroteBuf n k v (classify_buf_bound hc) hb

/-- A transaction of the bus has one of these results. -/
theorem exec_transaction {i : Instr} (s : State) (hi : i.isCommand = false) :
    ∃ t, exec i s = .next t ∧ TransactionResult i s t := by
  cases i with
  | cksum => cases hi
  | build4 => cases hi
  | build6 => cases hi
  | echo4 => cases hi
  | echo6 => cases hi
  | rd8 a => exact ⟨_, exec_rd8 a s, busRead_result _ _ _ _⟩
  | rd16 a => exact ⟨_, exec_rd16 a s, busRead_result _ _ _ _⟩
  | rd32 a => exact ⟨_, exec_rd32 a s, busRead_result _ _ _ _⟩
  | wr8 a v => exact ⟨_, exec_wr8 a v s, busWrite_result _ 1 a v s (by omega)⟩
  | wr16 a v => exact ⟨_, exec_wr16 a v s, busWrite_result _ 2 a v s (by omega)⟩
  | wr32 a v => exact ⟨_, exec_wr32 a v s, busWrite_result _ 4 a v s fun _ => rfl⟩

/-! What one step does. -/

theorem decodeCmd_isCommand {w : Word} {i : Instr} (h : decodeCmd w = .ok i) : i.isCommand = true := by
  unfold decodeCmd at h
  repeat' split at h
  all_goals first | cases h; rfl | cases h

theorem decodeBus_isTransaction {r : Request} {i : Instr} (h : decodeBus r = .ok i) : i.isCommand = false := by
  unfold decodeBus at h
  repeat' split at h
  all_goals first | cases h; rfl | cases h


/-- Everything the engine's turn can be: nothing is pending, or the pending word is a command, or it is illegal. -/
theorem fetchEngine_cases (u : State) :
    (u.pending = none ∧ fetchEngine u = .settled u) ∨
    (∃ w i, u.pending = some w ∧ decodeCmd w = .ok i ∧ fetchEngine u = .run i u) ∨
    (∃ w, u.pending = some w ∧ decodeCmd w = .error (.illegalCmd w) ∧
      fetchEngine u = .settled (u.raiseError .illegalCmd)) := by
  unfold fetchEngine
  cases hp : u.pending with
  | none => exact .inl ⟨rfl, rfl⟩
  | some w =>
    cases hd : decodeCmd w with
    | ok i => exact .inr (.inl ⟨w, i, rfl, hd, by simp [hd]⟩)
    | error e =>
      have he : e = .illegalCmd w := by
        unfold decodeCmd at hd
        repeat' split at hd
        all_goals first | cases hd; rfl | cases hd
      subst he
      exact .inr (.inr ⟨w, rfl, hd, by simp [hd]⟩)

/-- Everything a step can do, on the state with the head of the total order taken off: run a transaction or answer
the reserved size, do nothing, run or complete the pending command, or reset. -/
theorem step_cases (s : State) :
    let es := s.events.tail
    let u : State := { s with events := es }
    (∃ r i, s.events = .host r :: es ∧ decodeBus r = .ok i ∧ step s = exec i u) ∨
    (∃ r, s.events = .host r :: es ∧ decodeBus r = .error .reservedSize ∧ step s = .next u.busErr) ∨
    (s.pending = none ∧ step s = .next u) ∨
    (∃ w i, s.pending = some w ∧ decodeCmd w = .ok i ∧ step s = exec i u) ∨
    (∃ w, s.pending = some w ∧ decodeCmd w = .error (.illegalCmd w) ∧ step s = .next (u.raiseError .illegalCmd)) ∨
    (s.events = .reset :: es ∧ step s = .next u.resetEvent) := by
  have engine : ∀ u : State, u.pending = s.pending → fetch s = fetchEngine u →
      (s.pending = none ∧ step s = .next u) ∨
      (∃ w i, s.pending = some w ∧ decodeCmd w = .ok i ∧ step s = exec i u) ∨
      (∃ w, s.pending = some w ∧ decodeCmd w = .error (.illegalCmd w) ∧
        step s = .next (u.raiseError .illegalCmd)) := by
    intro u hu hf
    rw [← hu, step, hf]
    rcases fetchEngine_cases u with ⟨h1, h2⟩ | ⟨w, i, h1, h2, h3⟩ | ⟨w, h1, h2, h3⟩
    · exact .inl ⟨h1, by rw [h2]⟩
    · exact .inr (.inl ⟨w, i, h1, h2, by rw [h3]⟩)
    · exact .inr (.inr ⟨w, h1, h2, by rw [h3]⟩)
  cases he : s.events with
  | nil =>
    have hs : ({ s with events := [] } : State) = s := by rw [← he]
    have hf : fetch s = fetchEngine s := by rw [fetch, he]
    rcases engine s rfl hf with h | h | h
    · exact .inr (.inr (.inl (by simpa only [List.tail_nil, hs] using h)))
    · exact .inr (.inr (.inr (.inl (by simpa only [List.tail_nil, hs] using h))))
    · exact .inr (.inr (.inr (.inr (.inl (by simpa only [List.tail_nil, hs] using h)))))
  | cons e es =>
    simp only [List.tail_cons]
    cases e with
    | host r =>
      have hf : fetch s = fetchHost r { s with events := es } := by rw [fetch, he]
      cases hd : decodeBus r with
      | ok i => exact .inl ⟨r, i, rfl, hd, by rw [step, hf, fetchHost, hd]⟩
      | error e =>
        have he' : e = .reservedSize := by
          unfold decodeBus at hd
          repeat' split at hd
          all_goals first | cases hd; rfl | cases hd
        subst he'
        exact .inr (.inl ⟨r, rfl, hd, by rw [step, hf, fetchHost, hd]⟩)
    | engine =>
      have hf : fetch s = fetchEngine { s with events := es } := by rw [fetch, he]
      exact .inr (.inr ((engine { s with events := es } rfl hf).imp_right (Or.imp_right .inl)))
    | reset =>
      exact .inr (.inr (.inr (.inr (.inr ⟨rfl, by rw [step, fetch, he]⟩))))

/-! Runs. -/

@[simp] theorem core_run_zero (s : State) : Host.Core.run Sys2Proof.core 0 s = .next s := rfl

theorem core_run_succ {s t : State} (n : Nat) (h : step s = .next t) :
    Host.Core.run Sys2Proof.core (n + 1) s = Host.Core.run Sys2Proof.core n t := by
  have h' : Sys2Proof.core.step s = .next t := h
  simp only [Host.Core.run, h']

end Sys2Proof.Machine
end

