-- ==== Sys2Proof/Machine/Script.lean ====
section
/-! DEFINITION. The script notation for host programs and its pseudo-instructions, as lists of events
(30_encoding.md R95, R96). `poll` is the host's loop: how often it reads is an argument (93_implementation_defined.md
I19). -/

namespace Sys2Proof.Machine.Script

/-- The window offset of a register name (10_state.md R23). -/
def offsetOf : Reg → Addr
  | .id => 0x000
  | .bufsz => 0x004
  | .patmax => 0x008
  | .ctrl => 0x00C
  | .status => 0x010
  | .cmd => 0x014
  | .len => 0x018
  | .offset => 0x01C
  | .typecode => 0x020
  | .idseq => 0x024
  | .patlen => 0x028
  | .ck => 0x02C
  | .acc => 0x030
  | .rawlen => 0x034
  | .pat j => BitVec.ofNat 17 (0x040 + 4 * j)
  | .unlisted => 0x038

/-- `BUF+i`: block address 0x10000 + i (30_encoding.md R95). -/
def bufAddr (i : Nat) : Addr := BitVec.ofNat 17 (0x10000 + i)

/-- One line of a script: one bus transaction (30_encoding.md R95). A command word is no line of its own. -/
def line (i : Instr) : List Event :=
  match encode i with
  | .bus r => [.host r]
  | .cmd _ => []

/-- `wr32 <register>, v`. -/
def wrReg (r : Reg) (v : Word) : List Event := line (.wr32 (offsetOf r) v)

/-- `rd32 <register>`. -/
def rdReg (r : Reg) : List Event := line (.rd32 (offsetOf r))

/-- `issue <M>`: `wr32 CMD, w` with w the word of the command (30_encoding.md R96). -/
def issue (i : Instr) : List Event :=
  match encode i with
  | .cmd w => wrReg .cmd w
  | .bus _ => []

/-- `poll`: `k` reads of STATUS that see BUSY, the completion, and the read that sees it (30_encoding.md R96). -/
def poll (k : Nat) : List Event := (List.replicate k (rdReg .status)).flatten ++ .engine :: rdReg .status

/-- `run <M>`: `issue <M>` then `poll` (30_encoding.md R96). -/
def run (i : Instr) (k : Nat) : List Event := issue i ++ poll k

/-- `ack`: clear DONE (30_encoding.md R96, 60_exceptions.md R150). -/
def ack : List Event := wrReg .status 0x00000002#32

/-- `clrovr`: clear OVR (30_encoding.md R96). -/
def clrovr : List Event := wrReg .status 0x00000008#32

/-- `settc type, code` (30_encoding.md R96). -/
def settc (type code : Byte) : List Event := wrReg .typecode (0#16 ++ code ++ type)

/-- `setidseq id, seq` (30_encoding.md R96). -/
def setidseq (ident seq : Half) : List Event := wrReg .idseq (seq ++ ident)

/-- The pattern words of `ldpat` from register `j` on, missing bytes 0 (30_encoding.md R96). -/
def patWords (j : Nat) : List Byte → List Event
  | [] => []
  | [a] => line (.wr32 (BitVec.ofNat 17 (0x040 + 4 * j)) (0#8 ++ 0#8 ++ 0#8 ++ a))
  | [a, b] => line (.wr32 (BitVec.ofNat 17 (0x040 + 4 * j)) (0#8 ++ 0#8 ++ b ++ a))
  | [a, b, c] => line (.wr32 (BitVec.ofNat 17 (0x040 + 4 * j)) (0#8 ++ c ++ b ++ a))
  | a :: b :: c :: d :: t => line (.wr32 (BitVec.ofNat 17 (0x040 + 4 * j)) (d ++ c ++ b ++ a)) ++ patWords (j + 1) t

/-- `ldpat b0, …` (30_encoding.md R96). -/
def ldpat (bs : List Byte) : List Event := wrReg .patlen (BitVec.ofNat 32 bs.length) ++ patWords 0 bs

/-- `ldbuf i, b0, …`: one byte write each, in order (30_encoding.md R96). -/
def ldbuf (i : Nat) : List Byte → List Event
  | [] => []
  | b :: t => line (.wr8 (bufAddr i) (b.setWidth 32)) ++ ldbuf (i + 1) t

end Sys2Proof.Machine.Script
end

