-- ==== Sys2Proof/Tests/Slice0.lean ====
section
/-! SUPPORT. Tests on single steps, expected values from spec/95_test_vectors.md or hand calculation from the rules, and a
witness for the hypotheses of each statement. -/

namespace Sys2Proof.Tests

open Sys2Proof Sys2Proof.Machine

/-! Helpers. -/

/-- The next state of an outcome. -/
def after (o : Host.Outcome State Fault Refusal) : Option State :=
  match o with
  | .next t => some t
  | .fault _ => none
  | .refused _ => none

/-- A state whose buffer starts with the given bytes. -/
def withBytes (bs : List Byte) (s : State) : State := { s with buf := (List.range bs.length).zip bs }

/-- The first n written bytes. -/
def bytes (n : Nat) (s : State) : List (Option Byte) := (List.range n).map (Buf.get s.buf)

/-- What a test looks at after a command: bytes, CK, ACC, RAWLEN, STATUS. -/
def packet (n : Nat) (o : Host.Outcome State Fault Refusal) :
    Option (List (Option Byte) × Half × Word × Word × Word) :=
  (after o).map fun t => (bytes n t, t.ck, t.acc, t.rawLen, t.statusWord)

/-- A state with a command pending. -/
def busyState : State := { State.reset with pending := some 0x00000003#32 }

/-! WellFormed refuses ill-formed terms (20_memory.md R64). -/

theorem test_wf_wr8 : (Instr.wr8 0 0x100).WellFormed = false ∧ (Instr.wr8 0 0xFF).WellFormed = true := by decide
theorem test_wf_wr16 : (Instr.wr16 0 0x10000).WellFormed = false ∧ (Instr.wr16 0 0xFFFF).WellFormed = true := by decide

/-! Decoding: words written out from 30_encoding.md R86, bit by bit RSV FAM OP, and requests from R93. -/

theorem test_decode_cksum : decodeCmd 0b000000000000000000000000000_0_0001#32 = .ok .cksum := rfl
theorem test_decode_build4 : decodeCmd 0b000000000000000000000000000_0_0010#32 = .ok .build4 := rfl
theorem test_decode_build6 : decodeCmd 0b000000000000000000000000000_1_0010#32 = .ok .build6 := rfl
theorem test_decode_echo4 : decodeCmd 0b000000000000000000000000000_0_0011#32 = .ok .echo4 := rfl
theorem test_decode_echo6 : decodeCmd 0b000000000000000000000000000_1_0011#32 = .ok .echo6 := rfl

/-- The illegal words of 95_test_vectors.md section 2.2. -/
theorem test_decode_illegal :
    [0x00000000, 0x00000004, 0x0000000F, 0x00000011, 0x00000023, 0x80000001].map (decodeTableWord 32) =
      [none, none, none, none, none, none] := by decide

theorem test_decode_rd8 : decodeBus ⟨false, 0b00#2, 0x10001, 0⟩ = .ok (.rd8 0x10001) := rfl
theorem test_decode_rd16 : decodeBus ⟨false, 0b01#2, 0x10002, 0⟩ = .ok (.rd16 0x10002) := rfl
theorem test_decode_rd32 : decodeBus ⟨false, 0b10#2, 0x00014, 0⟩ = .ok (.rd32 0x00014) := rfl
theorem test_decode_wr8 : decodeBus ⟨true, 0b00#2, 0x10008, 0xFFFFFF01⟩ = .ok (.wr8 0x10008 0x01) := rfl
theorem test_decode_wr16 : decodeBus ⟨true, 0b01#2, 0x10004, 0xFFFF3412⟩ = .ok (.wr16 0x10004 0x3412) := rfl
theorem test_decode_wr32 : decodeBus ⟨true, 0b10#2, 0x00020, 0x12345678⟩ = .ok (.wr32 0x00020 0x12345678) := rfl
theorem test_decode_reserved_size : decodeBus ⟨true, 0b11#2, 0, 0⟩ = .error .reservedSize := rfl

/-- A bus word with its operands, in the layout of log entry 7. -/
theorem test_decode_table_wr32 :
    decodeTableWord 56 (0x63 * 2 ^ 20 + 0x18 * 2 ^ 3 + 0b110) = some (.wr32 0x00018 0x63) := by decide

/-! Commands (95_test_vectors.md). -/

/-- V5: two folds. -/
theorem test_cksum_v5 :
    packet 8 (exec .cksum (withBytes [0x00, 0x00, 0xFF, 0xFF, 0xFF, 0xFF, 0x01, 0x00]
      { busyState with len := 8, offset := 0 })) =
    some ([0xFE, 0xFF, 0xFF, 0xFF, 0xFF, 0xFF, 0x01, 0x00].map some, 0xFFFE, 0x0001FFFF, 8, 0x02) := by decide

/-- V7: an odd offset at the end of an odd range. -/
theorem test_cksum_v7 :
    packet 5 (exec .cksum (withBytes [0x12, 0x34, 0x56, 0x00, 0x00] { busyState with len := 5, offset := 3 })) =
    some ([0x12, 0x34, 0x56, 0x97, 0xCB].map some, 0xCB97, 0x00003468, 5, 0x02) := by decide

/-- B4: an odd payload. -/
theorem test_build4_b4 :
    packet 7 (exec .build4 (withBytes [0xAA, 0xAA, 0xAA, 0xAA, 0x01, 0x02, 0x03]
      { busyState with len := 3, msgType := 0x03, msgCode := 0x01 })) =
    some ([0x03, 0x01, 0xF8, 0xFC, 0x01, 0x02, 0x03].map some, 0xFCF8, 0x00000307, 7, 0x02) := by decide

/-- B8: one byte too long. -/
theorem test_build4_b8 :
    packet 1 (exec .build4 (withBytes [0xAA] { busyState with len := 65533 })) = some ([some 0xAA], 0, 0, 0, 0x46) := by decide

/-- B6. -/
theorem test_build6_b6 :
    packet 9 (exec .build6 (withBytes [0x00, 0x00, 0x00, 0x00, 0xDE, 0xAD, 0xBE, 0xEF, 0x01]
      { busyState with len := 5, msgType := 0x81 })) =
    some ([0x81, 0x00, 0xE0, 0x61, 0xDE, 0xAD, 0xBE, 0xEF, 0x01].map some, 0x61E0, 0x00019E1E, 9, 0x02) := by decide

/-- E3: the repeated pattern, from an empty buffer. -/
theorem test_echo4_e3 :
    packet 13 (exec .echo4
      { busyState with len := 12, ident := 0x1234, seq := 1, patLen := 2, pat := busyState.pat.set 0 0x0000BBAA }) =
    some ([0x08, 0x00, 0x90, 0x53, 0x12, 0x34, 0x00, 0x01, 0xAA, 0xBB, 0xAA, 0xBB].map some ++ [none],
      0x5390, 0x0001AC6E, 12, 0x02) := by decide

/-- X14: LENGTH_RANGE before PATTERN_EMPTY. -/
theorem test_echo4_x14 : packet 1 (exec .echo4 { busyState with len := 70000 }) = some ([none], 0, 0, 0, 0x46) := by decide

/-- E4: a truncated pattern. -/
theorem test_echo6_e4 :
    packet 11 (exec .echo6
      { busyState with
        len := 11
        ident := 0xBEEF
        seq := 0xFFFF
        patLen := 3
        pat := busyState.pat.set 0 0x00030201 }) =
    some ([0x80, 0x00, 0xBD, 0x0D, 0xBE, 0xEF, 0xFF, 0xFF, 0x01, 0x02, 0x03].map some, 0x0DBD, 0x0001F241, 11, 0x02) := by
  decide

/-- X10: PATLEN beyond the store. -/
theorem test_echo6_x10 :
    packet 1 (exec .echo6 { busyState with len := 9, patLen := 17 }) = some ([none], 0, 0, 0, 0x66) := by decide

/-- X7, an illegal word, X9: the ERRCODE numbers 2, 3 and 5 of 60_exceptions.md R140. -/
theorem test_error_numbers :
    [exec .echo4 { busyState with len := 7 }, step { busyState with pending := some 0x23 },
      exec .echo6 { busyState with len := 9 }].map (fun o => (after o).map State.statusWord) =
    [some 0x26, some 0x36, some 0x56] := by decide

/-! Bus transactions (95_test_vectors.md section 2.3). -/

/-- The response and the STATUS word after a transaction. -/
def answer (o : Host.Outcome State Fault Refusal) : Option (Option Response × Word) :=
  (after o).map fun t => (t.rsp, t.statusWord)

/-- The last byte of the buffer window, and H13: refused while BUSY. -/
theorem test_rd8 :
    answer (exec (.rd8 0x1FFFF) { State.reset with buf := [(65535, 0xF7)] }) = some (some ⟨false, 0xF7⟩, 0) ∧
    answer (exec (.rd8 0x10000) busyState) = some (some ⟨true, 0⟩, 0x09) := by decide

/-- The identifier byte-swapped (20_memory.md R69), and H8. -/
theorem test_rd16 :
    answer (exec (.rd16 0x10004) { State.reset with buf := [(4, 0x12), (5, 0x34)] }) =
      some (some ⟨false, 0x3412⟩, 0) ∧
    answer (exec (.rd16 0x10001) State.reset) = some (some ⟨true, 0⟩, 0) := by decide

/-- H10. -/
theorem test_rd32_buffer :
    answer (exec (.rd32 0x10004) { State.reset with buf := [(4, 0x12), (5, 0x34), (6, 0x00), (7, 0x01)] }) =
      some (some ⟨false, 0x01003412⟩, 0) := by decide

/-- H1, H6 and H5. -/
theorem test_rd32_registers :
    answer (exec (.rd32 0x00000) busyState) = some (some ⟨false, 0x49434D50⟩, 1) ∧
    answer (exec (.rd32 0x00038) State.reset) = some (some ⟨false, 0⟩, 0) ∧
    answer (exec (.rd32 0x00012) State.reset) = some (some ⟨true, 0⟩, 0) := by decide

/-- A byte write inside the buffer, and H4's width rule for a write. -/
theorem test_wr8 :
    (after (exec (.wr8 0x10008 0x01) State.reset)).map (·.buf) = some [(8, 0x01)] ∧
    answer (exec (.wr8 0x00010 0x01) State.reset) = some (some ⟨true, 0⟩, 0) := by decide

/-- H9. -/
theorem test_wr16 :
    (after (exec (.wr16 0x10004 0x3412) State.reset)).map (·.buf) = some [(4, 0x12), (5, 0x34)] := by decide

/-- H11 and H15. -/
theorem test_wr32_registers :
    ((after (exec (.wr32 0x00020 0x12345678) State.reset)).map (regRead .typecode)) = some 0x00005678 ∧
    answer (exec (.wr32 0x00010 0xFFFFFFFF) { State.reset with done := true, ovr := true, err := .argument }) =
      some (some ⟨false, 0⟩, 0x14) := by decide

/-- H7 and H16. -/
theorem test_wr32_errors :
    answer (exec (.wr32 0x01000 5) State.reset) = some (some ⟨true, 0⟩, 0) ∧
    (after (exec (.wr32 0x00014 3) { busyState with pending := some 1 })).map (fun t => (t.pending, t.ovr)) =
      some (some 1, true) := by decide

/-! The step and the script notation. -/

/-- withFetchWord makes the very next step run the word. -/
theorem test_withFetchWord :
    packet 4 (step (State.reset.withFetchWord 32 0x00000012)) =
      some ([0x00, 0x00, 0xFF, 0xFF].map some, 0xFFFF, 0, 4, 0x02) ∧
    answer (step (State.reset.withFetchWord 8 0b010)) = some (some ⟨false, 0x49434D50⟩, 0) := by decide

/-- 30_encoding.md R96: `run ECHO4` is the issue and the poll. -/
theorem test_script_run :
    Script.run .echo4 1 =
      [.host ⟨true, 2, 0x14, 3⟩, .host ⟨false, 2, 0x10, 0⟩, .engine, .host ⟨false, 2, 0x10, 0⟩] := by decide

/-- 30_encoding.md R96: `ldpat 61, 62, 63, 64, 65` (95_test_vectors.md P1's byte order). -/
theorem test_script_ldpat :
    Script.ldpat [0x61, 0x62, 0x63, 0x64, 0x65] =
      [.host ⟨true, 2, 0x28, 5⟩, .host ⟨true, 2, 0x40, 0x64636261⟩, .host ⟨true, 2, 0x44, 0x00000065⟩] := by decide

/-! Witnesses: for each statement with hypotheses, a state and operands that meet them. -/

theorem witness_StepRunsTheDecodedInstruction :
    (∃ (s : State) (r : Request) (es : List Event), s.events = .host r :: es ∧ decodeBus r = .ok (.rd32 0)) ∧
    (∃ (s : State) (es : List Event), s.events = .engine :: es ∧ s.pending = some 3 ∧ decodeCmd 3 = .ok .echo4) ∧
    (∃ s : State, s.events = [] ∧ s.pending = some 3 ∧ decodeCmd 3 = .ok .echo4) :=
  ⟨⟨{ State.reset with events := [.host ⟨false, 2, 0, 0⟩] }, _, _, rfl, rfl⟩,
    ⟨{ busyState with events := [.engine] }, _, rfl, rfl, rfl⟩, ⟨busyState, rfl, rfl, rfl⟩⟩

theorem witness_IdleBlockKeepsItsState :
    (State.reset.pending = none ∧ State.reset.events = []) ∧
    ∃ s : State, s.pending = none ∧ s.events = [.engine] :=
  ⟨⟨rfl, rfl⟩, ⟨{ State.reset with events := [.engine] }, rfl, rfl⟩⟩

theorem witness_IllegalWordCompletesWithIllegalCmd :
    (0x00000011#32 : Word) ∉ [0x00000001#32, 0x00000002#32, 0x00000012#32, 0x00000003#32, 0x00000013#32] ∧
    (∃ s : State, s.pending = some 0x00000011#32 ∧ s.events = []) ∧
    ∃ s : State, s.pending = some 0x00000011#32 ∧ s.events = [.engine] :=
  ⟨by decide, ⟨{ busyState with pending := some 0x11 }, rfl, rfl⟩,
    ⟨{ busyState with pending := some 0x11, events := [.engine] }, rfl, rfl⟩⟩

theorem witness_CommandWordsDecodeByExactMatch :
    decodeCmd 0x00000013#32 = .ok .echo6 ∧ decodeCmd 0x00000011#32 = .error (.illegalCmd 0x00000011#32) := ⟨rfl, rfl⟩

theorem witness_BusDescriptorSelectsTheTransaction :
    ∃ (s : State) (r : Request) (es : List Event), r.size = 0b11#2 ∧ s.events = .host r :: es :=
  ⟨{ State.reset with events := [.host ⟨true, 3, 0, 0⟩] }, _, _, rfl, rfl⟩

theorem witness_DecodeOfEncodeIsTheInstruction :
    (Instr.wr8 0x1FFFF 0xFF).WellFormed = true ∧ (Instr.wr16 0x1FFFE 0xFFFF).WellFormed = true ∧
    (Instr.wr32 0x1FFFC 0xFFFFFFFF).WellFormed = true ∧ Instr.cksum.WellFormed = true := by decide

theorem witness_EncodeOfDecodeIsTheEncoding :
    decodeCmd 0x00000012#32 = .ok .build6 ∧ decodeBus ⟨true, 1, 0x1FFFE, 0xFFFFFFFF⟩ = .ok (.wr16 0x1FFFE 0xFFFF) ∧
    decodeBus ⟨false, 2, 0, 0xFFFFFFFF⟩ = .ok (.rd32 0) := ⟨rfl, rfl, rfl⟩

theorem witness_ResetLeavesTheResetValues : ∃ (s : State) (es : List Event), s.busy = true ∧ s.events = .reset :: es :=
  ⟨{ busyState with events := [.reset] }, _, rfl, rfl⟩

theorem witness_ResetDrawsTheBufferAnew : ∃ (s : State) (es : List Event), s.byte 0 = 0x55#8 ∧ s.events = .reset :: es :=
  ⟨{ State.reset with buf := [(0, 0x55)], events := [.reset] }, _, rfl, rfl⟩

/-- CKSUM's clauses at their boundaries: X1, X3, X5, and the largest range with the field at its end. -/
theorem witness_CksumComputesAndInsertsTheChecksum :
    (∃ s : State, s.len.toNat < 2) ∧ (∃ s : State, 2 ≤ s.len.toNat ∧ s.len.toNat < s.offset.toNat + 2) ∧
    (∃ s : State, 2 ≤ s.len.toNat ∧ s.offset.toNat + 2 ≤ s.len.toNat ∧ Config.bufBytes < s.len.toNat) ∧
    (∃ s : State, 2 ≤ s.len.toNat ∧ s.offset.toNat + 2 ≤ s.len.toNat ∧ s.len.toNat ≤ Config.bufBytes) :=
  ⟨⟨{ busyState with len := 1 }, by decide⟩, ⟨{ busyState with len := 4, offset := 3 }, by decide⟩,
    ⟨{ busyState with len := 65537 }, by decide⟩, ⟨{ busyState with len := 65536, offset := 65534 }, by decide⟩⟩

theorem witness_BuildAssemblesHeaderAndChecksum :
    (∃ s : State, Config.bufBytes - 4 < s.len.toNat) ∧ (∃ s : State, s.len.toNat ≤ Config.bufBytes - 4) :=
  ⟨⟨{ busyState with len := 65533 }, by decide⟩, ⟨{ busyState with len := 65532 }, by decide⟩⟩

/-- ECHO's clauses at their boundaries: X7, X12, X9, X10, E1 (PATLEN not read), and PATLEN = PAT_MAX over the whole buffer. -/
theorem witness_EchoAssemblesTheEchoRequest :
    (∃ s : State, s.len.toNat < 8) ∧ (∃ s : State, Config.bufBytes < s.len.toNat) ∧
    (∃ s : State, 8 < s.len.toNat ∧ s.len.toNat ≤ Config.bufBytes ∧ s.patLen.toNat = 0) ∧
    (∃ s : State, 8 < s.len.toNat ∧ s.len.toNat ≤ Config.bufBytes ∧ Config.patMax < s.patLen.toNat) ∧
    (∃ s : State, s.len.toNat = 8 ∧ s.len.toNat ≤ Config.bufBytes ∧
      (8 < s.len.toNat → 1 ≤ s.patLen.toNat ∧ s.patLen.toNat ≤ Config.patMax)) ∧
    (∃ s : State, 8 < s.len.toNat ∧ s.len.toNat ≤ Config.bufBytes ∧
      (8 < s.len.toNat → 1 ≤ s.patLen.toNat ∧ s.patLen.toNat ≤ Config.patMax)) :=
  ⟨⟨{ busyState with len := 7 }, by decide⟩, ⟨{ busyState with len := 65537 }, by decide⟩,
    ⟨{ busyState with len := 9 }, by decide⟩, ⟨{ busyState with len := 9, patLen := 17 }, by decide⟩,
    ⟨{ busyState with len := 8 }, by decide⟩, ⟨{ busyState with len := 65536, patLen := 16 }, by decide⟩⟩

theorem witness_PatternBytesLieInThePatternRegisters : (3 : Nat) < Config.patRegs ∧ (3 : Nat) < 4 := by decide

theorem witness_FinalizedBufferResumsToAllOnes :
    ∃ s t : State, Instr.cksum.isCommand = true ∧ exec .cksum s = .next t ∧ t.err = .noError ∧ s.offset.toNat % 2 = 0 :=
  ⟨withBytes [0x08, 0x00, 0x55, 0x66] { busyState with len := 4, offset := 2 }, _, rfl, rfl, by decide, by decide⟩

/-- The longest range, and V5's sum, which needs two rounds. -/
theorem witness_AccumulatorNeverWraps :
    (65536 : Nat) ≤ Config.bufBytes ∧
    0x10000 ≤ foldLoop 1 (sumBytes (withBytes [0x00, 0x00, 0xFF, 0xFF, 0xFF, 0xFF, 0x01, 0x00] busyState).byte 8) := by decide

theorem witness_CksumDependsOnItsRangeOnly :
    ∃ s s' t t' : State, s'.len = s.len ∧ s'.offset = s.offset ∧
      (∀ j, j < s.len.toNat → j ≠ s.offset.toNat → j ≠ s.offset.toNat + 1 → s'.byte j = s.byte j) ∧
      exec .cksum s = .next t ∧ exec .cksum s' = .next t' ∧ t.err = .noError ∧ s.byte 2 ≠ s'.byte 2 :=
  ⟨withBytes [0x08, 0x00, 0x55, 0x66] { busyState with len := 4, offset := 2 },
    withBytes [0x08, 0x00, 0x77, 0x88] { busyState with len := 4, offset := 2 }, _, _, rfl, rfl, by decide, rfl, rfl,
    by decide, by decide⟩

theorem witness_OddOffsetBreaksTheRoundTrip :
    ∃ s : State, s.len = 4#32 ∧ s.offset = 1#32 ∧
      s.byte 0 = 0x01#8 ∧ s.byte 1 = 0x77#8 ∧ s.byte 2 = 0x77#8 ∧ s.byte 3 = 0x00#8 :=
  ⟨withBytes [0x01, 0x77, 0x77, 0x00] { busyState with len := 4, offset := 1 }, by decide⟩

theorem witness_CommandErrorsHaveNoPartialEffect :
    ∃ s t : State, Instr.echo6.isCommand = true ∧ exec .echo6 s = .next t ∧ t.err ≠ .noError :=
  ⟨{ busyState with len := 7 }, _, rfl, rfl, by decide⟩

theorem witness_CompletionUpdatesStatus :
    Instr.cksum.isCommand = true ∧ Instr.echo6.isCommand = true ∧
    decodeCmd 0x00000023#32 = .error (.illegalCmd 0x00000023#32) ∧
    (∃ s : State, s.pending = some 0x00000023#32 ∧ s.events = []) ∧
    ∃ s : State, s.pending = some 0x00000023#32 ∧ s.events = [.engine] :=
  ⟨rfl, rfl, rfl, ⟨{ busyState with pending := some 0x23 }, rfl, rfl⟩,
    ⟨{ busyState with pending := some 0x23, events := [.engine] }, rfl, rfl⟩⟩

theorem witness_BuildersAreDeterministic :
    (∃ s s' t t' : State, s'.len = s.len ∧ s'.ident = s.ident ∧ s'.seq = s.seq ∧ s'.patLen = s.patLen ∧
      (∀ j, j < s.patLen.toNat → s'.patternByte j = s.patternByte j) ∧
      exec .echo4 s = .next t ∧ exec .echo4 s' = .next t' ∧ t.err = .noError ∧ s.buf ≠ s'.buf) ∧
    (∃ s s' t t' : State, s'.len = s.len ∧ s'.msgType = s.msgType ∧ s'.msgCode = s.msgCode ∧
      (∀ j, 4 ≤ j → j < 4 + s.len.toNat → s'.byte j = s.byte j) ∧
      exec .build6 s = .next t ∧ exec .build6 s' = .next t' ∧ t.err = .noError ∧ s.buf ≠ s'.buf) :=
  ⟨⟨{ busyState with len := 9, patLen := 1 }, { busyState with len := 9, patLen := 1, buf := [(8, 1)] }, _, _, rfl, rfl, rfl, rfl,
      by decide, rfl, rfl, by decide, by decide⟩,
    ⟨{ busyState with len := 1, buf := [(4, 9)] }, { busyState with len := 1, buf := [(0, 7), (4, 9)] }, _, _, rfl, rfl, rfl,
      fun j h4 h5 => by
        have hj : j = 4 := by
          have : j < 5 := h5
          omega
        subst hj
        decide,
      rfl, rfl, by decide, by decide⟩⟩

theorem witness_PacketFieldsAsTheBusSeesThem :
    (∃ s t : State, exec .build4 s = .next t ∧ t.err = .noError) ∧ (∃ s t : State, exec .echo6 s = .next t ∧ t.err = .noError) :=
  ⟨⟨busyState, _, rfl, by decide⟩, ⟨{ busyState with len := 8, ident := 0x1234 }, _, rfl, by decide⟩⟩

theorem witness_IssueMakesTheCommandPending : (∃ s : State, s.busy = false) ∧ ∃ s : State, s.busy = true :=
  ⟨⟨State.reset, rfl⟩, ⟨busyState, rfl⟩⟩

/-- The lock's clauses: the last aligned word of the buffer, PAT3, and an unlisted offset that is not locked. -/
theorem witness_BusyLockRefusesAndLetsTheRestProceed :
    busyState.busy = true ∧ (0x1FFFC#17 : Addr).toNat = 0x10000 + 65532 ∧ 65532 < Config.bufBytes ∧ 65532 % 4 = 0 ∧
    (0x0004C#17 : Addr).toNat ∈ [0x14, 0x18, 0x1C, 0x20, 0x24, 0x28, 0x40, 0x44, 0x48, 0x4C] ∧
    (0x00FFC#17 : Addr).toNat ≤ 0xFFF ∧ (0x00FFC#17 : Addr).toNat % 4 = 0 ∧
    (0x00FFC#17 : Addr).toNat ∉ [0x0C, 0x10, 0x14, 0x18, 0x1C, 0x20, 0x24, 0x28, 0x40, 0x44, 0x48, 0x4C] := by decide

theorem witness_BadTransactionsOnlyGetAnErrorResponse :
    (0x01000 ≤ (0x01000#17 : Addr).toNat ∧ (0x01000#17 : Addr).toNat < 0x10000) ∧
    (0x01000 ≤ (0x0FFFF#17 : Addr).toNat ∧ (0x0FFFF#17 : Addr).toNat < 0x10000) ∧
    ((0x00FFC#17 : Addr).toNat ≤ 0xFFF ∧ (2 ≠ 4 ∨ (0x00FFC#17 : Addr).toNat % 4 ≠ 0)) ∧
    ((0x00FFF#17 : Addr).toNat ≤ 0xFFF ∧ ((4 : Nat) ≠ 4 ∨ (0x00FFF#17 : Addr).toNat % 4 ≠ 0)) ∧
    (0x10000 ≤ (0x1FFFF#17 : Addr).toNat ∧ (0x1FFFF#17 : Addr).toNat % 2 ≠ 0) := by decide

/-- The unlisted offsets at both ends, and the last pattern register. -/
theorem witness_RegisterReadsReturnTheRegisters :
    ((0x00050#17 : Addr).toNat ≤ 0xFFF ∧ (0x00050#17 : Addr).toNat % 4 = 0 ∧ 0x040 + Config.patMax ≤ (0x00050#17 : Addr).toNat) ∧
    ((0x00FFC#17 : Addr).toNat ≤ 0xFFF ∧ (0x00FFC#17 : Addr).toNat % 4 = 0 ∧ 0x040 + Config.patMax ≤ (0x00FFC#17 : Addr).toNat) ∧
    (0x00038#17 : Addr).toNat = 0x038 ∧ (0x0003C#17 : Addr).toNat = 0x03C ∧ 3 < Config.patRegs := by decide

theorem witness_RegisterWritesHaveTheirEffect :
    State.reset.busy = false ∧ (0x00034#17 : Addr).toNat ∈ [0x000, 0x004, 0x008, 0x02C, 0x030, 0x034] ∧ 3 < Config.patRegs ∧
    ((0x00050#17 : Addr).toNat ≤ 0xFFF ∧ (0x00050#17 : Addr).toNat % 4 = 0 ∧ 0x040 + Config.patMax ≤ (0x00050#17 : Addr).toNat) := by
  decide

/-- Widths 1, 2 and 4 at the end of the buffer. -/
theorem witness_BufferAccessesAreLittleEndian :
    State.reset.busy = false ∧
    ((0x1FFFF#17 : Addr).toNat = 0x10000 + 65535 ∧ 65535 < Config.bufBytes ∧ 65535 % 1 = 0) ∧
    ((0x1FFFE#17 : Addr).toNat = 0x10000 + 65534 ∧ 65534 < Config.bufBytes ∧ 65534 % 2 = 0) ∧
    ((0x1FFFC#17 : Addr).toNat = 0x10000 + 65532 ∧ 65532 < Config.bufBytes ∧ 65532 % 4 = 0) ∧
    classify 4 0x00000#17 = .reg .id ∧ classify 4 0x0004C#17 = .reg (.pat ⟨3, by decide⟩) ∧
    classify 4 0x00050#17 = .reg .unlisted := by decide

theorem witness_ReadsHaveNoSideEffect : ∃ i : Instr, i = .rd8 0 ∨ i = .rd16 0 ∨ i = .rd32 0 := ⟨.rd8 0, .inl rfl⟩

theorem witness_IrqFollowsDoneAndEnable : Instr.echo4.isCommand = true ∧ State.reset.busy = false := by decide

/-- irq rises by a completion, and by an enable after one. -/
theorem witness_IrqRisesOnlyByCompletionOrEnable :
    (∃ s t : State, step s = .next t ∧ s.irq = false ∧ t.irq = true ∧ s.busy = true) ∧
    (∃ s t : State, step s = .next t ∧ s.irq = false ∧ t.irq = true ∧ s.busy = false) :=
  ⟨⟨{ busyState with ie := true }, _, rfl, by decide, by decide, by decide⟩,
    ⟨{ State.reset with done := true, events := [.host ⟨true, 2, 0x0C, 1⟩] }, _, rfl, by decide, by decide, by decide⟩⟩

theorem witness_OperandsChangeOnlyByHostWriteOrReset :
    (∃ s t : State, step s = .next t ∧ ¬ s.SameOperands t ∧ s.events = [.host ⟨true, 2, 0x18, 5⟩]) ∧
    (∃ s t : State, step s = .next t ∧ ¬ s.SameOperands t ∧ s.events = [.reset]) :=
  ⟨⟨{ State.reset with events := [.host ⟨true, 2, 0x18, 5⟩] }, _, rfl, fun h => absurd h.1 (by decide), rfl⟩,
    ⟨{ State.reset with len := 5, events := [.reset] }, _, rfl, fun h => absurd h.1 (by decide), rfl⟩⟩

/-- A refused write, a completion, and a reset while a command is pending. -/
theorem witness_PendingCommandKeepsItsOperands :
    (∃ s t : State, s.pending = some 3 ∧ step s = .next t ∧ t.pending = some 3) ∧
    (∃ s t : State, s.pending = some 3 ∧ step s = .next t ∧ t.pending = none ∧ t.done = true) ∧
    (∃ s t : State, s.pending = some 3 ∧ step s = .next t ∧ t.pending = none ∧ t.done = false) :=
  ⟨⟨{ busyState with events := [.host ⟨true, 2, 0x18, 5⟩] }, _, rfl, rfl, rfl⟩, ⟨busyState, _, rfl, rfl, rfl, rfl⟩,
    ⟨{ busyState with events := [.reset] }, _, rfl, rfl, rfl, rfl⟩⟩

theorem witness_OvrIsSticky :
    (∃ s t : State, step s = .next t ∧ s.ovr = true ∧ t.ovr = true) ∧
    (∃ s t : State, step s = .next t ∧ s.ovr = true ∧ t.ovr = false) :=
  ⟨⟨{ busyState with ovr := true }, _, rfl, rfl, by decide⟩,
    ⟨{ busyState with ovr := true, events := [.host ⟨true, 2, 0x10, 8⟩] }, _, rfl, rfl, by decide⟩⟩

/-- A state after an error. -/
def errorState : State := { State.reset with err := .argument, done := true }

theorem errorState_inv : errorState.Inv :=
  ⟨by decide, fun h => (by cases h), fun _ => rfl, by decide, by decide⟩

theorem witness_ErrcodeStaysUntilIssueOrReset :
    (∃ s t : State, s.Inv ∧ step s = .next t ∧ s.err ≠ .noError ∧ t.err = s.err) ∧
    (∃ s t : State, s.Inv ∧ step s = .next t ∧ s.err ≠ .noError ∧ t.pending = some 3) :=
  ⟨⟨errorState, _, errorState_inv, rfl, by decide, rfl⟩,
    ⟨{ errorState with events := [.host ⟨true, 2, 0x14, 3⟩] }, _,
      ⟨by decide, fun h => (by cases h), fun _ => rfl, by decide, by decide⟩, rfl, by decide, by decide⟩⟩

theorem witness_StepKeepsTheInvariant : ∃ s t : State, s.Inv ∧ step s = .next t := ⟨errorState, _, errorState_inv, rfl⟩

theorem witness_BlockAddressesLieFromBase : ∃ x : Nat, x < Config.base ∨ Config.base + 0x20000 ≤ x :=
  ⟨Config.base + 0x20000, .inr (Nat.le_refl _)⟩

end Sys2Proof.Tests
end

section
/-! PROOFS. The host's memory view (20_memory.md): little-endian accesses (R68) and the interrupt output (R83). -/

namespace Sys2Proof.Machine

/-! Bytes and little-endian numbers. -/

/-- Byte `k` of a value is its digit `k` to base 256 (00_scope.md R10). -/
theorem byteOf_toNat {w : Nat} (v : BitVec w) (k : Nat) : (byteOf v k).toNat = v.toNat / 256 ^ k % 256 := by
  rw [byteOf, BitVec.extractLsb'_toNat, Nat.shiftRight_eq_div_pow, Nat.pow_mul]

/-- The little-endian number at byte `i` as a sum of digits to base 256 (20_memory.md R68). -/
theorem State.readLE_eq_sum (s : State) (i n : Nat) :
    s.readLE i n = ∑ k ∈ Finset.range n, (s.byte (i + k)).toNat * 256 ^ k := by
  induction n with
  | zero => rfl
  | succ n ih => rw [State.readLE, ih, Finset.sum_range_succ, Nat.shiftLeft_eq, Nat.pow_mul]

/-- A read of at most 4 bytes fits the data lines. -/
theorem State.toNat_ofNat_readLE (s : State) (i : Nat) {n : Nat} (hn : n ≤ 4) :
    (BitVec.ofNat 32 (s.readLE i n)).toNat = s.readLE i n := by
  rw [BitVec.toNat_ofNat]
  exact Nat.mod_eq_of_lt ((s.readLE_lt i n).trans_le (Nat.pow_le_pow_right (by decide) (by omega)))

/-! What a bus access does, by what its address names (42_host_bus.md R128 to R134). -/

theorem exec_readInstr {n : Nat} (hn : n = 1 ∨ n = 2 ∨ n = 4) (a : Addr) (s : State) :
    exec (readInstr n a) s = .next (busRead n a s) := by
  rcases hn with rfl | rfl | rfl
  · exact exec_rd8 a s
  · exact exec_rd16 a s
  · exact exec_rd32 a s

theorem exec_writeInstr {n : Nat} (hn : n = 1 ∨ n = 2 ∨ n = 4) (a : Addr) (v : Word) (s : State) :
    exec (writeInstr n a v) s = .next (busWrite n a v s) := by
  rcases hn with rfl | rfl | rfl
  · exact exec_wr8 a v s
  · exact exec_wr16 a v s
  · exact exec_wr32 a v s

theorem busRead_buf {n i : Nat} {a : Addr} {s : State} (hc : classify n a = .buf i) (hb : s.busy = false) :
    busRead n a s = s.respond (BitVec.ofNat 32 (s.readLE i n)) := by
  simp [busRead, hc, hb]

theorem busRead_reg {n : Nat} {a : Addr} {r : Reg} (s : State) (hc : classify n a = .reg r) :
    busRead n a s = s.respond (regRead r s) := by
  simp [busRead, hc]

theorem busWrite_buf {n i : Nat} {a : Addr} {s : State} (v : Word) (hc : classify n a = .buf i)
    (hb : s.busy = false) : busWrite n a v s = (State.writeLE i v n s).respond 0 := by
  simp [busWrite, hc, hb]

theorem busWrite_reg {n : Nat} {a : Addr} {r : Reg} {s : State} (v : Word) (hc : classify n a = .reg r)
    (hl : (s.busy && r.locked) = false) : busWrite n a v s = (regWrite r v s).respond 0 := by
  simp [busWrite, hc, hl]

/-- A 32-bit write of a register the lock does not hold takes effect and answers OK. -/
theorem exec_wr32_reg {a : Addr} {r : Reg} {s : State} (v : Word) (hc : classify 4 a = .reg r)
    (hl : (s.busy && r.locked) = false) : exec (.wr32 a v) s = .next ((regWrite r v s).respond 0) := by
  rw [exec_wr32, busWrite_reg v hc hl]

/-! R68. -/

/-- An answered little-endian write changes the buffer and the response alone. -/
theorem State.respond_writeLE_frame (s : State) (i n : Nat) (v w : Word) :
    (State.writeLE i v n s).respond w =
      { s with buf := ((State.writeLE i v n s).respond w).buf, rsp := some ⟨false, w⟩ } := by
  rw [s.bufOnly_writeLE i v n]
  rfl

/-- Settles O29: an aligned access names its buffer byte, and the little-endian read and write have one law each. -/
theorem bufferAccessesAreLittleEndian : Obligations.BufferAccessesAreLittleEndian := by
  intro s
  refine ⟨fun n i a hn ha hi hm hb => ?_, fun r a hc => by rw [exec_rd32, busRead_reg s hc]; rfl⟩
  have hc : classify n a = .buf i := classify_buf hn ha hi hm
  constructor
  · refine ⟨BitVec.ofNat 32 (s.readLE i n), ?_, ?_⟩
    · rw [exec_readInstr hn, busRead_buf hc hb]
      rfl
    · rw [s.toNat_ofNat_readLE i (by omega), s.readLE_eq_sum]
  · intro v
    refine ⟨(State.writeLE i v n s).respond 0, ?_, s.respond_writeLE_frame i n v 0, fun k hk => ?_, fun j hj => ?_⟩
    · rw [exec_writeInstr hn, busWrite_buf v hc hb]
    · rw [State.byte_respond, State.byte_writeLE, if_pos (by omega), Nat.add_sub_cancel_left, byteOf_toNat]
    · rw [State.byte_respond, State.byte_writeLE, if_neg (by omega)]

/-! R83. -/

/-- A completion sets DONE and keeps IE, so irq is IE after it. -/
theorem State.irq_complete {s : State} {r : Except ErrCode State} (hr : CommandResult s r) :
    (s.complete r).irq = s.ie := by
  obtain ⟨-, hdone, -, -, hie, -⟩ := State.complete_frame hr
  rw [State.irq, hdone, hie, Bool.and_true]

/-- Settles O31: each clause is the update of DONE or IE that its step makes. -/
theorem irqFollowsDoneAndEnable : Obligations.IrqFollowsDoneAndEnable := by
  intro s
  refine ⟨fun i hi => ?completion, fun v => ?status, fun v => ?ctrl, fun hb v => ?issue⟩
  case completion =>
    obtain ⟨r, hr, he⟩ := exec_command s hi
    exact ⟨_, he, State.irq_complete hr⟩
  case status =>
    have hc : classify 4 0x00010#17 = .reg .status := by decide
    exact ⟨_, exec_wr32_reg v hc (Bool.and_false _), (Bool.and_assoc _ _ _).symm⟩
  case ctrl =>
    have hc : classify 4 0x0000C#17 = .reg .ctrl := by decide
    exact ⟨_, exec_wr32_reg v hc (Bool.and_false _), rfl⟩
  case issue =>
    have hc : classify 4 0x00014#17 = .reg .cmd := by decide
    exact ⟨_, exec_wr32_reg v hc (by rw [hb, Bool.false_and]), Bool.and_false _⟩

end Sys2Proof.Machine
end

section
/-! PROOFS. The encoding (30_encoding.md): the command words (R86) and the bus descriptor (R93). -/

namespace Sys2Proof

/-! R86. -/

/-- Every outcome of the match on a command word: a row of the table, or a rejection by the word itself. -/
theorem decodeCmd_cases (w : Word) :
    (w = 0x00000001#32 ∧ decodeCmd w = .ok .cksum) ∨ (w = 0x00000002#32 ∧ decodeCmd w = .ok .build4) ∨
    (w = 0x00000012#32 ∧ decodeCmd w = .ok .build6) ∨ (w = 0x00000003#32 ∧ decodeCmd w = .ok .echo4) ∨
    (w = 0x00000013#32 ∧ decodeCmd w = .ok .echo6) ∨ decodeCmd w = .error (.illegalCmd w) := by
  by_cases h1 : w = 0x00000001#32
  · exact .inl ⟨h1, by rw [h1]; rfl⟩
  by_cases h2 : w = 0x00000002#32
  · exact .inr (.inl ⟨h2, by rw [h2]; rfl⟩)
  by_cases h3 : w = 0x00000012#32
  · exact .inr (.inr (.inl ⟨h3, by rw [h3]; rfl⟩))
  by_cases h4 : w = 0x00000003#32
  · exact .inr (.inr (.inr (.inl ⟨h4, by rw [h4]; rfl⟩)))
  by_cases h5 : w = 0x00000013#32
  · exact .inr (.inr (.inr (.inr (.inl ⟨h5, by rw [h5]; rfl⟩))))
  · exact .inr (.inr (.inr (.inr (.inr (by rw [decodeCmd, if_neg h1, if_neg h2, if_neg h3, if_neg h4, if_neg h5])))))

theorem decodeCmd_eq_ok_iff (w : Word) (i : Instr) : decodeCmd w = .ok i ↔
    (w = 0x00000001#32 ∧ i = .cksum) ∨ (w = 0x00000002#32 ∧ i = .build4) ∨ (w = 0x00000012#32 ∧ i = .build6) ∨
    (w = 0x00000003#32 ∧ i = .echo4) ∨ (w = 0x00000013#32 ∧ i = .echo6) := by
  constructor
  · intro h
    rcases decodeCmd_cases w with ⟨hw, hd⟩ | ⟨hw, hd⟩ | ⟨hw, hd⟩ | ⟨hw, hd⟩ | ⟨hw, hd⟩ | hd <;>
      cases hd.symm.trans h <;> simp [hw]
  · rintro (⟨rfl, rfl⟩ | ⟨rfl, rfl⟩ | ⟨rfl, rfl⟩ | ⟨rfl, rfl⟩ | ⟨rfl, rfl⟩) <;> rfl

theorem decodeCmd_error {w : Word} {e : Reject} (h : decodeCmd w = .error e) : e = .illegalCmd w := by
  rcases decodeCmd_cases w with ⟨-, hd⟩ | ⟨-, hd⟩ | ⟨-, hd⟩ | ⟨-, hd⟩ | ⟨-, hd⟩ | hd <;> cases hd.symm.trans h
  rfl

/-! R93. -/

/-- An n-byte write carries the low 8n bits of the datum (20_memory.md R63). -/
theorem lowBytes_toNat (n : Nat) (v : Word) : (lowBytes n v).toNat = v.toNat % 2 ^ (8 * n) := by
  have hlt : v.toNat % 2 ^ (8 * n) < 2 ^ 32 := (Nat.mod_le _ _).trans_lt v.isLt
  rw [lowBytes, BitVec.toNat_setWidth, BitVec.toNat_setWidth, Nat.mod_eq_of_lt hlt]

section
variable {r : Request}

theorem decodeBus_size1 (hs : r.size = 0b00#2) :
    decodeBus r = .ok (if r.we then .wr8 r.addr (lowBytes 1 r.wdata) else .rd8 r.addr) := by
  rw [decodeBus, if_pos hs]

theorem decodeBus_size2 (hs : r.size = 0b01#2) :
    decodeBus r = .ok (if r.we then .wr16 r.addr (lowBytes 2 r.wdata) else .rd16 r.addr) := by
  rw [decodeBus, hs]
  rfl

theorem decodeBus_size4 (hs : r.size = 0b10#2) :
    decodeBus r = .ok (if r.we then .wr32 r.addr r.wdata else .rd32 r.addr) := by
  rw [decodeBus, hs]
  rfl

theorem decodeBus_reserved (hs : r.size = 0b11#2) : decodeBus r = .error .reservedSize := by
  rw [decodeBus, hs]
  rfl

end

end Sys2Proof

namespace Sys2Proof.Machine

/-- BUILD4 and BUILD6 are one operation (41_builder.md R119). -/
theorem exec_build4_eq_build6 (s : State) : exec .build4 s = exec .build6 s := by
  rw [exec_build4, exec_build6]

/-- A host request that selects no transaction gets an error response (60_exceptions.md R143). -/
theorem step_host_rejected {s : State} {r : Request} {es : List Event} {e : Reject}
    (he : s.events = .host r :: es) (hd : decodeBus r = .error e) :
    step s = .next (State.busErr { s with events := es }) := by
  rw [step, fetch, he]
  simp only [fetchHost, hd]

/-- Settles O4: the outcomes of the match, read in both directions, and the one build operation. -/
theorem commandWordsDecodeByExactMatch : Obligations.CommandWordsDecodeByExactMatch :=
  ⟨decodeCmd_eq_ok_iff, fun _ _ => decodeCmd_error, exec_build4_eq_build6⟩

/-- Settles O5: the decode at each size, with `req_we` choosing the direction; size 11 decodes to nothing. -/
theorem busDescriptorSelectsTheTransaction : Obligations.BusDescriptorSelectsTheTransaction := by
  intro r
  refine ⟨fun hw hs => ?rd8, fun hw hs => ?rd16, fun hw hs => ?rd32, fun hw hs => ?wr8, fun hw hs => ?wr16,
    fun hw hs => ?wr32, fun hs s es he => ?reserved⟩
  case rd8 => simp [decodeBus_size1 hs, hw]
  case rd16 => simp [decodeBus_size2 hs, hw]
  case rd32 => simp [decodeBus_size4 hs, hw]
  case wr8 => exact ⟨_, by rw [decodeBus_size1 hs, if_pos hw], lowBytes_toNat _ r.wdata⟩
  case wr16 => exact ⟨_, by rw [decodeBus_size2 hs, if_pos hw], lowBytes_toNat _ r.wdata⟩
  case wr32 => rw [decodeBus_size4 hs, if_pos hw]
  case reserved => exact step_host_rejected he (decodeBus_reserved hs)

end Sys2Proof.Machine
end

section
/-! PROOFS. The checksum (40_checksum.md): the accumulator's bound and the fold (R107), CKSUM (R103) and the round-trip law
(R106). -/

namespace Sys2Proof.Machine

/-! The accumulator stays below 2^32 (R107). -/

section
variable (rd : Nat → Byte)

theorem wordAt_le (k : Nat) : wordAt rd k ≤ 0xFFFF := Nat.le_of_lt_succ (BitVec.isLt _)

theorem sumWords_le (m : Nat) : sumWords rd m ≤ m * 0xFFFF := by
  induction m with
  | zero => exact Nat.le_refl 0
  | succ m ih =>
    have := wordAt_le rd m
    rw [sumWords]
    omega

/-- At most 32768 words: a trailing byte makes one more word only where n is odd, so below BUF_BYTES. -/
theorem sumBytes_le {n : Nat} (hn : n ≤ Config.bufBytes) : sumBytes rd n ≤ 0x7FFF8000 := by
  have hb : Config.bufBytes = 65536 := rfl
  have hw := sumWords_le rd (n / 2)
  have ht := (rd (n - 1)).isLt
  rw [sumBytes]
  split <;> omega

/-- No addition wraps: the 32-bit accumulator is the exact sum. -/
theorem acc32_toNat {n : Nat} (hn : n ≤ Config.bufBytes) : (acc32 rd n).toNat = byteSum rd n := by
  have hle := sumBytes_le rd hn
  rw [acc32, BitVec.toNat_ofNat, Nat.mod_eq_of_lt (by omega), sumBytes_eq_byteSum]

end

/-! Rounds of the fold, and what they end in (R102, R107, R108). -/

/-- One round, where one is due. -/
theorem foldLoop_one (a : Nat) : foldLoop 1 a = if 0xFFFF < a then a % 0x10000 + a / 0x10000 else a := by
  split
  · next h => exact foldLoop_succ_of_gt 0 h
  · next h => exact foldLoop_of_le 1 (Nat.le_of_not_lt h)

/-- `j + k` rounds are `k` rounds after `j` rounds. -/
theorem foldLoop_add (j k a : Nat) : foldLoop (j + k) a = foldLoop k (foldLoop j a) := by
  induction j generalizing a with
  | zero => rw [Nat.zero_add]; rfl
  | succ j ih =>
    rw [Nat.succ_add]
    by_cases h : 0xFFFF < a
    · rw [foldLoop_succ_of_gt _ h, foldLoop_succ_of_gt _ h, ih]
    · have hle := Nat.le_of_not_lt h
      rw [foldLoop_of_le _ hle, foldLoop_of_le _ hle, foldLoop_of_le _ hle]

theorem foldLoop_two (a : Nat) : foldLoop 2 a = foldLoop 1 (foldLoop 1 a) := foldLoop_add 1 1 a

/-- A sum below 2^32 is folded after two rounds: the first leaves at most one carry, and then low bits that take it. -/
theorem foldLoop_two_le {a : Nat} (ha : a < 2 ^ 32) : foldLoop 2 a ≤ 0xFFFF := by
  have h1 : foldLoop 1 a ≤ 0x1FFFE := by
    rw [foldLoop_one]
    split <;> omega
  rw [foldLoop_two, foldLoop_one]
  split <;> omega

theorem onesFold_of_le {a : Nat} (h : a ≤ 0xFFFF) : onesFold a = a := by
  rw [onesFold]
  split <;> omega

/-- A round keeps the residue modulo 0xFFFF, because 0x10000 is 1 there, and keeps a sum from becoming 0. -/
theorem onesFold_round (a : Nat) : onesFold (a % 0x10000 + a / 0x10000) = onesFold a := by
  simp only [onesFold]
  split <;> split <;> omega

theorem onesFold_foldLoop (fuel a : Nat) : onesFold (foldLoop fuel a) = onesFold a := by
  induction fuel generalizing a with
  | zero => rfl
  | succ n ih =>
    by_cases h : 0xFFFF < a
    · rw [foldLoop_succ_of_gt n h, ih, onesFold_round]
    · rw [foldLoop_of_le _ (Nat.le_of_not_lt h)]

/-- The fold of any 32-bit sum in closed form. -/
theorem fold16_eq_onesFold (a : Word) : fold16 a = onesFold a.toNat := by
  rw [fold16, ← onesFold_foldLoop 2 a.toNat, onesFold_of_le (foldLoop_two_le a.isLt)]

theorem checksumOf_toNat (a : Word) : (checksumOf a).toNat = 0xFFFF - onesFold a.toNat := by
  rw [checksumOf, fold16_eq_onesFold, BitVec.toNat_ofNat, Nat.mod_eq_of_lt (by omega)]

/-- Settles O16: the sum's bound, and from it the bound on each round of the fold. -/
theorem accumulatorNeverWraps : Obligations.AccumulatorNeverWraps := by
  intro rd n hn
  have hsum := sumBytes_le rd hn
  have htwo : foldLoop 2 (sumBytes rd n) ≤ 0xFFFF := foldLoop_two_le (by omega)
  have hone : foldLoop 1 (sumBytes rd n) ≤ 0x17FFE := by
    rw [foldLoop_one]
    split <;> omega
  refine ⟨hsum, acc32_toNat rd hn, hone, fun hcarry => ?_, htwo, fun k => ?_⟩
  · rw [foldLoop_two, foldLoop_one, if_pos (Nat.lt_of_succ_le hcarry)]
    omega
  · rw [foldLoop_add, foldLoop_of_le k htwo]

/-! Inserting the checksum finalizes the buffer (R103, R109). -/

/-- With the field zeroed, the finalized buffer is the buffer that was summed. -/
theorem State.byteZeroed_insertChecksum (s : State) (n off : Nat) :
    (s.insertChecksum n off).byteZeroed off = (s.zeroField off).byte := by
  funext j
  rw [State.byteZeroed, State.byte_zeroField]
  split
  · rfl
  · next h =>
    obtain ⟨hlow, hhigh⟩ := not_or.mp h
    rw [State.byte_insertChecksum, if_neg hlow, if_neg hhigh]

theorem State.acc_insertChecksum_toNat (s : State) {n : Nat} (off : Nat) (hn : n ≤ Config.bufBytes) :
    (s.insertChecksum n off).acc.toNat = byteSum ((s.insertChecksum n off).byteZeroed off) n := by
  rw [State.acc_insertChecksum, acc32_toNat _ hn, State.byteZeroed_insertChecksum]

theorem State.insertChecksum_finalized (s : State) {n : Nat} (off : Nat) (hn : n ≤ Config.bufBytes) :
    (s.insertChecksum n off).Finalized n off where
  acc_eq := s.acc_insertChecksum_toNat off hn
  ck_eq := by rw [State.ck_insertChecksum, checksumOf_toNat, s.acc_insertChecksum_toNat off hn]
  field_low := by rw [State.byte_insertChecksum, if_pos rfl, byteOf_toNat, Nat.pow_zero, Nat.div_one]
  field_high := by
    have hck := (s.insertChecksum n off).ck.isLt
    rw [State.byte_insertChecksum, if_neg (by omega), if_pos rfl, byteOf_toNat]
    omega
  rawLen_eq := by
    have hb : Config.bufBytes = 65536 := rfl
    rw [State.rawLen_insertChecksum, BitVec.toNat_ofNat, Nat.mod_eq_of_lt (by omega)]

/-- The completion writes STATUS and the pending command only. -/
theorem State.Finalized.finish {t : State} {n off : Nat} (h : t.Finalized n off) : t.finish.Finalized n off :=
  ⟨h.acc_eq, h.ck_eq, h.field_low, h.field_high, h.rawLen_eq⟩

/-! CKSUM (R103). -/

theorem cksumCheck_argument {o : CksumOperands} (h : o.n < 2 ∨ o.n < o.off + 2) : cksumCheck o = some .argument := by
  rw [cksumCheck, if_pos h]

theorem cksumCheck_lengthRange {o : CksumOperands} (h2 : 2 ≤ o.n) (hoff : o.off + 2 ≤ o.n)
    (hn : Config.bufBytes < o.n) : cksumCheck o = some .lengthRange := by
  rw [cksumCheck, if_neg (by omega), if_pos hn]

/-- Settles O11: each outcome of the check, and the finalized buffer where it passes. -/
theorem cksumComputesAndInsertsTheChecksum : Obligations.CksumComputesAndInsertsTheChecksum := by
  refine ⟨rfl, fun s => ⟨fun h => ?argument, fun h2 hoff hn => ?lengthRange, fun h2 hoff hn => ?success⟩⟩
  case argument =>
    rw [exec_cksum, State.cksum_of_check (cksumCheck_argument h)]
    rfl
  case lengthRange =>
    rw [exec_cksum, State.cksum_of_check (cksumCheck_lengthRange h2 hoff hn)]
    rfl
  case success =>
    refine ⟨(s.insertChecksum s.len.toNat s.offset.toNat).finish, ?_, State.succeeded_insertChecksum _ _ (.refl s),
      (s.insertChecksum_finalized _ hn).finish, fun j hlow hhigh => ?_⟩
    · rw [exec_cksum, State.cksum_of_pass (cksumCheck_eq_none.mpr ⟨h2, hoff, hn⟩), State.complete_ok]
    · rw [State.byte_finish, State.byte_insertChecksum, if_neg hlow, if_neg hhigh]

/-! The round-trip law (R106). -/

/-- The finalized bytes of `t` re-sum to 0xFFFF. -/
def State.Resums (t : State) : Prop := fold16 (acc32 t.byte t.rawLen.toNat) = 0xFFFF

theorem State.Resums.finish {t : State} (h : t.Resums) : t.finish.Resums := h

/-- At an even offset the field is one word of the grid: it adds its little-endian value to the sum. -/
theorem State.byteSum_eq_zeroed_add_field (t : State) {n off : Nat} (heven : off % 2 = 0) (hoff : off + 2 ≤ n) :
    byteSum t.byte n =
      byteSum (t.byteZeroed off) n + ((t.byte off).toNat + 256 * (t.byte (off + 1)).toNat) := by
  have hodd : (off + 1) % 2 = 1 := by omega
  have hterm : ∀ i, (t.byte i).toNat * 256 ^ (i % 2) = (t.byteZeroed off i).toNat * 256 ^ (i % 2) +
      ((if i = off then (t.byte off).toNat else 0) + if i = off + 1 then 256 * (t.byte (off + 1)).toNat else 0) := by
    intro i
    rw [State.byteZeroed]
    by_cases hlow : i = off
    · simp [hlow, heven]
    · by_cases hhigh : i = off + 1
      · simp [hhigh, hodd, Nat.mul_comm]
      · simp [hlow, hhigh]
  have hlow : off < n := by omega
  have hhigh : off + 1 < n := by omega
  simp [byteSum, Finset.sum_congr rfl fun i _ => hterm i, Finset.sum_add_distrib, hlow, hhigh]

/-- One's-complement addition of a sum and the complement of its fold. -/
theorem onesFold_add_complement (a : Nat) : onesFold (a + (0xFFFF - onesFold a)) = 0xFFFF := by
  simp only [onesFold]
  split <;> split <;> omega

theorem State.Finalized.resums {t : State} {n off : Nat} (h : t.Finalized n off) (heven : off % 2 = 0)
    (hoff : off + 2 ≤ n) (hn : n ≤ Config.bufBytes) : t.Resums := by
  have hfield : (t.byte off).toNat + 256 * (t.byte (off + 1)).toNat = t.ck.toNat := by
    rw [h.field_low, h.field_high, Nat.mod_add_div]
  rw [State.Resums, h.rawLen_eq, fold16_eq_onesFold, acc32_toNat _ hn, t.byteSum_eq_zeroed_add_field heven hoff, hfield,
    h.ck_eq, onesFold_add_complement]

section
variable {s t : State}

theorem State.cksum_resums (h : s.cksum = .ok t) (heven : s.offset.toNat % 2 = 0) : t.Resums := by
  cases hc : cksumCheck s.cksumOperands with
  | some e =>
    rw [State.cksum_of_check hc] at h
    cases h
  | none =>
    obtain ⟨-, hoff, hn⟩ := cksumCheck_eq_none.mp hc
    rw [State.cksum_of_pass hc] at h
    cases h
    exact (s.insertChecksum_finalized _ hn).resums heven hoff hn

theorem State.buildCore_resums {type code : Byte} {plen : Nat} (h : s.buildCore type code plen = .ok t) :
    t.Resums := by
  by_cases hp : plen ≤ Config.bufBytes - 4
  · have hb : 4 ≤ Config.bufBytes := by decide
    have hn : 4 + plen ≤ Config.bufBytes := by omega
    rw [State.buildCore_of_le hp] at h
    cases h
    exact (State.insertChecksum_finalized _ 2 hn).resums rfl (by omega) hn
  · rw [State.buildCore_of_gt (by omega)] at h
    cases h

/-- An echo ends in BUILD_CORE (41_builder.md R114). -/
theorem State.echo_resums {type : Byte} (h : s.echo type = .ok t) : t.Resums := by
  rw [State.echo] at h
  split at h
  · cases h
  · exact State.buildCore_resums h

/-- The completion succeeds only with a state the command's rule made, and keeps that state's buffer and RAWLEN. -/
theorem State.complete_resums {r : Except ErrCode State} (hr : CommandResult s r) (hres : ∀ u, r = .ok u → u.Resums)
    (hok : (s.complete r).err = .noError) : (s.complete r).Resums := by
  cases hr with
  | failed e he => exact absurd hok he
  | built u n off => exact (hres _ rfl).finish

end

/-- Settles O15: each command that succeeds finalizes the buffer at an even offset (CKSUM by hypothesis, the builders at 2), and
such a buffer re-sums to 0xFFFF. -/
theorem finalizedBufferResumsToAllOnes : Obligations.FinalizedBufferResumsToAllOnes := by
  intro i s t hi hnext hok heven
  cases i with
  | cksum =>
    cases hnext
    exact State.complete_resums s.cksum_result (fun _ h => State.cksum_resums h (heven rfl)) hok
  | build4 | build6 =>
    cases hnext
    exact State.complete_resums (s.buildCore_result _ _ _) (fun _ => State.buildCore_resums) hok
  | echo4 | echo6 =>
    cases hnext
    exact State.complete_resums (s.echo_result _) (fun _ => State.echo_resums) hok
  | rd8 | rd16 | rd32 | wr8 | wr16 | wr32 => cases hi

end Sys2Proof.Machine
end

section
/-! PROOFS. The packet builder (41_builder.md): BUILD (R113, R119), ECHO (R114, R115) and their determinism (R122). -/

namespace Sys2Proof.Machine

/-! The packet: the header written and the checksum inserted over the whole message (R110). -/

/-- The message of `n` bytes that BUILD_CORE makes of a buffer which holds its bytes from 4 on (41_builder.md R110). -/
def State.packet (type code : Byte) (n : Nat) (s : State) : State :=
  ((s.setByte 0 type).setByte 1 code).insertChecksum n 2

section
variable {s u : State} (type code : Byte) (n : Nat)

theorem State.buildCore_eq_packet {plen : Nat} (h : plen ≤ Config.bufBytes - 4) :
    s.buildCore type code plen = .ok (s.packet type code (4 + plen)) :=
  State.buildCore_of_le h

theorem State.byte_finish_packet_zero : (s.packet type code n).finish.byte 0 = type := by
  rw [State.byte_finish, State.packet, State.byte_insertChecksum, if_neg (by decide), if_neg (by decide),
    State.byte_setByte_ne _ _ (by decide), State.byte_setByte_same]

theorem State.byte_finish_packet_one : (s.packet type code n).finish.byte 1 = code := by
  rw [State.byte_finish, State.packet, State.byte_insertChecksum, if_neg (by decide), if_neg (by decide),
    State.byte_setByte_same]

theorem State.byte_finish_packet_of_ge {j : Nat} (hj : 4 ≤ j) : (s.packet type code n).finish.byte j = s.byte j := by
  rw [State.byte_finish, State.packet, State.byte_insertChecksum, if_neg (by omega), if_neg (by omega),
    State.byte_setByte_ne _ _ (by omega), State.byte_setByte_ne _ _ (by omega)]

theorem State.finish_packet_finalized (hn : n ≤ Config.bufBytes) : (s.packet type code n).finish.Finalized n 2 :=
  (State.insertChecksum_finalized _ 2 hn).finish

theorem State.succeeded_finish_packet (hu : s.BufOnly u) : s.Succeeded (u.packet type code n).finish :=
  State.succeeded_insertChecksum n 2
    ((hu.trans (State.bufOnly_setByte _ _ _)).trans (State.bufOnly_setByte _ _ _))

end

/-! BUILD4 and BUILD6 (R113, R119). -/

theorem exec_build {i : Instr} (hi : i = .build4 ∨ i = .build6) (s : State) :
    exec i s = .next (s.complete (s.buildCore s.msgType s.msgCode s.len.toNat)) := by
  rcases hi with rfl | rfl
  · exact exec_build4 s
  · exact exec_build6 s

/-- Settles O12: BUILD_CORE refuses the length, or its packet has the header written and the checksum inserted. -/
theorem buildAssemblesHeaderAndChecksum : Obligations.BuildAssemblesHeaderAndChecksum := by
  refine ⟨rfl, rfl, fun i s hi => ⟨fun h => ?lengthRange, fun h => ?success⟩⟩
  case lengthRange =>
    rw [exec_build hi, State.buildCore_of_gt h]
    rfl
  case success =>
    have hb : 4 ≤ Config.bufBytes := by decide
    refine ⟨(s.packet s.msgType s.msgCode (4 + s.len.toNat)).finish, ?_, State.succeeded_finish_packet _ _ _ (.refl s),
      State.finish_packet_finalized _ _ _ (by omega), State.byte_finish_packet_zero _ _ _,
      State.byte_finish_packet_one _ _ _, fun j hj => State.byte_finish_packet_of_ge _ _ _ hj⟩
    rw [exec_build hi, State.buildCore_eq_packet _ _ h, State.complete_ok]

/-! ECHO_BODY: its checks, and the buffer it leaves for BUILD_CORE (R117). -/

section
variable {o : EchoOperands}

theorem echoCheck_invalidLength (h : o.len < 8) : echoCheck o = some .invalidLength := by
  rw [echoCheck, if_pos h]

theorem echoCheck_lengthRange (h : Config.bufBytes < o.len) : echoCheck o = some .lengthRange := by
  have hb : 8 ≤ Config.bufBytes := by decide
  rw [echoCheck, if_neg (by omega), if_pos h]

theorem echoCheck_patternEmpty (h8 : 8 < o.len) (hn : o.len ≤ Config.bufBytes) (hk : o.patLen = 0) :
    echoCheck o = some .patternEmpty := by
  rw [echoCheck, if_neg (by omega), if_neg (by omega), if_pos ⟨h8, hk⟩]

theorem echoCheck_patternRange (h8 : 8 < o.len) (hn : o.len ≤ Config.bufBytes) (hk : Config.patMax < o.patLen) :
    echoCheck o = some .patternRange := by
  rw [echoCheck, if_neg (by omega), if_neg (by omega), if_neg (by omega), if_pos ⟨h8, hk⟩]

end

theorem byteOf_half_zero_toNat (v : Half) : (byteOf v 0).toNat = v.toNat % 256 := by
  rw [byteOf_toNat, Nat.pow_zero, Nat.div_one]

theorem byteOf_half_one_toNat (v : Half) : (byteOf v 1).toNat = v.toNat / 256 := by
  have hv := v.isLt
  rw [byteOf_toNat]
  omega

/-- Identifier and sequence number stand high byte first (20_memory.md R67). -/
theorem State.byte_putIdSeq_toNat (s : State) (ident seq : Half) :
    ((s.putIdSeq ident seq).byte 4).toNat = ident.toNat / 256 ∧
    ((s.putIdSeq ident seq).byte 5).toNat = ident.toNat % 256 ∧
    ((s.putIdSeq ident seq).byte 6).toNat = seq.toNat / 256 ∧
    ((s.putIdSeq ident seq).byte 7).toNat = seq.toNat % 256 := by
  simp only [State.byte_putIdSeq]
  exact ⟨byteOf_half_one_toNat _, byteOf_half_zero_toNat _, byteOf_half_one_toNat _, byteOf_half_zero_toNat _⟩

/-- A buffer write leaves the pattern store alone (10_state.md R36). -/
theorem State.patternByte_putIdSeq (s : State) (ident seq : Half) (j : Nat) :
    (s.putIdSeq ident seq).patternByte j = s.patternByte j := by
  rw [State.patternByte, State.patternByte, s.bufOnly_putIdSeq ident seq]

/-- The buffer after ECHO_BODY: identifier, sequence number and filler in place (41_builder.md R117). -/
def State.echoFilled (s : State) : State :=
  (s.putIdSeq s.ident s.seq).fill s.patLen.toNat (s.len.toNat - 8)

section
variable {s : State}

theorem State.bufOnly_echoFilled : s.BufOnly s.echoFilled :=
  (State.bufOnly_putIdSeq s _ _).trans (State.bufOnly_fill _ _ _)

theorem State.byte_echoFilled_header {j : Nat} (hj : j < 8) :
    s.echoFilled.byte j = (s.putIdSeq s.ident s.seq).byte j := by
  rw [State.echoFilled, State.byte_fill, if_neg (by omega)]

theorem State.byte_echoFilled_filler {j : Nat} (hj : j < s.len.toNat - 8) :
    s.echoFilled.byte (8 + j) = s.patternByte (j % s.patLen.toNat) := by
  rw [State.echoFilled, State.byte_fill, if_pos (by omega), Nat.add_sub_cancel_left, State.patternByte_putIdSeq]

theorem State.byte_echoFilled_of_ge {j : Nat} (h8 : 8 ≤ j) (hj : s.len.toNat ≤ j) :
    s.echoFilled.byte j = s.byte j := by
  rw [State.echoFilled, State.byte_fill, if_neg (by omega), State.byte_putIdSeq, if_neg (by omega),
    if_neg (by omega), if_neg (by omega), if_neg (by omega)]

theorem State.echo_eq_packet {type : Byte} (h : echoCheck s.echoOperands = none) :
    s.echo type = .ok (s.echoFilled.packet type 0 s.len.toNat) := by
  have hlen : 8 ≤ s.len.toNat := (echoCheck_eq_none.mp h).1
  rw [State.echo_of_pass h, Nat.add_sub_cancel' (by omega)]
  rfl

end

/-! ECHO4 and ECHO6 (R114, R115). -/

section
variable {i : Instr} {type : Byte} (hi : (i = .echo4 ∧ type = 8) ∨ (i = .echo6 ∧ type = 128)) {s : State}
include hi

theorem exec_echo : exec i s = .next (s.complete (s.echo type)) := by
  rcases hi with ⟨rfl, rfl⟩ | ⟨rfl, rfl⟩
  · exact exec_echo4 s
  · exact exec_echo6 s

theorem exec_echo_of_check {e : ErrCode} (h : echoCheck s.echoOperands = some e) : exec i s = .next (s.failed e) := by
  rw [exec_echo hi, State.echo_of_check h]
  rfl

theorem exec_echo_of_pass (h : echoCheck s.echoOperands = none) :
    exec i s = .next (s.echoFilled.packet type 0 s.len.toNat).finish := by
  rw [exec_echo hi, State.echo_eq_packet h, State.complete_ok]

end

/-- Settles O13: each outcome of the checks; where they pass, the packet over the buffer ECHO_BODY filled. -/
theorem echoAssemblesTheEchoRequest : Obligations.EchoAssemblesTheEchoRequest := by
  refine ⟨rfl, rfl, fun i type s hi => ⟨fun h => ?invalidLength, fun h => ?lengthRange, fun h8 hn hk => ?patternEmpty,
    fun h8 hn hk => ?patternRange, fun h8 hn hk => ?success⟩⟩
  case invalidLength => exact exec_echo_of_check hi (echoCheck_invalidLength h)
  case lengthRange => exact exec_echo_of_check hi (echoCheck_lengthRange h)
  case patternEmpty => exact exec_echo_of_check hi (echoCheck_patternEmpty h8 hn hk)
  case patternRange => exact exec_echo_of_check hi (echoCheck_patternRange h8 hn hk)
  case success =>
    have hheader {j : Nat} (h4 : 4 ≤ j) (hj : j < 8) :
        (s.echoFilled.packet type 0 s.len.toNat).finish.byte j = (s.putIdSeq s.ident s.seq).byte j := by
      rw [State.byte_finish_packet_of_ge _ _ _ h4, State.byte_echoFilled_header hj]
    obtain ⟨hidHigh, hidLow, hseqHigh, hseqLow⟩ := s.byte_putIdSeq_toNat s.ident s.seq
    refine ⟨_, exec_echo_of_pass hi (echoCheck_eq_none.mpr ⟨h8, hn, hk⟩),
      State.succeeded_finish_packet _ _ _ State.bufOnly_echoFilled, State.finish_packet_finalized _ _ _ hn,
      State.byte_finish_packet_zero _ _ _, State.byte_finish_packet_one _ _ _, ?_, ?_, ?_, ?_, fun j hj => ?filler,
      fun j hj => ?frame⟩
    · rw [hheader (by decide) (by decide), hidHigh]
    · rw [hheader (by decide) (by decide), hidLow]
    · rw [hheader (by decide) (by decide), hseqHigh]
    · rw [hheader (by decide) (by decide), hseqLow]
    case filler => rw [State.byte_finish_packet_of_ge _ _ _ (by omega), State.byte_echoFilled_filler hj]
    case frame => rw [State.byte_finish_packet_of_ge _ _ _ (by omega), State.byte_echoFilled_of_ge (by omega) hj]

/-! Determinism (R122): equal inputs give equal outcomes. -/

/-- Two completions agree on ERRCODE and RAWLEN and, on success, on CK, ACC and the first `n` bytes of the buffer. -/
def State.Agrees (n : Nat) (t t' : State) : Prop :=
  t'.err = t.err ∧ t'.rawLen = t.rawLen ∧
  (t.err = .noError → t'.ck = t.ck ∧ t'.acc = t.acc ∧ ∀ j, j < n → t'.byte j = t.byte j)

section
variable {s s' : State}

theorem State.agrees_raiseError (n : Nat) {e : ErrCode} (he : e ≠ .noError) :
    State.Agrees n (s.raiseError e) (s'.raiseError e) :=
  ⟨rfl, rfl, fun h => absurd h he⟩

/-- The sum sees the field as zero, so the insertion depends on the other bytes of its range only (R108, R109). -/
theorem State.acc_insertChecksum_congr {n off : Nat}
    (h : ∀ j, j < n → j ≠ off → j ≠ off + 1 → s'.byte j = s.byte j) :
    (s'.insertChecksum n off).acc = (s.insertChecksum n off).acc := by
  rw [State.acc_insertChecksum, State.acc_insertChecksum]
  refine acc32_congr fun j hj => ?_
  rw [State.byte_zeroField, State.byte_zeroField]
  split
  · rfl
  · next hne =>
    obtain ⟨hlow, hhigh⟩ := not_or.mp hne
    exact h j hj hlow hhigh

theorem State.agrees_insertChecksum {n off : Nat}
    (h : ∀ j, j < n → j ≠ off → j ≠ off + 1 → s'.byte j = s.byte j) :
    State.Agrees n (s.insertChecksum n off).finish (s'.insertChecksum n off).finish := by
  have hacc := State.acc_insertChecksum_congr h
  have hck : (s'.insertChecksum n off).ck = (s.insertChecksum n off).ck := by
    rw [State.ck_insertChecksum, State.ck_insertChecksum, hacc]
  refine ⟨rfl, rfl, fun _ => ⟨hck, hacc, fun j hj => ?_⟩⟩
  rw [State.byte_finish, State.byte_finish, State.byte_insertChecksum, State.byte_insertChecksum, hck]
  split
  · rfl
  · split
    · rfl
    · next hlow hhigh => exact h j hj hlow hhigh

theorem State.agrees_packet {type code : Byte} {n : Nat} (h : ∀ j, 4 ≤ j → j < n → s'.byte j = s.byte j) :
    State.Agrees n (s.packet type code n).finish (s'.packet type code n).finish := by
  refine State.agrees_insertChecksum fun j hj h2 h3 => ?_
  simp only [State.byte_setByte]
  split
  · rfl
  · split
    · rfl
    · exact h j (by omega) hj

theorem State.agrees_buildCore {type code : Byte} {plen : Nat}
    (h : ∀ j, 4 ≤ j → j < 4 + plen → s'.byte j = s.byte j) :
    State.Agrees (4 + plen) (s.complete (s.buildCore type code plen)) (s'.complete (s'.buildCore type code plen)) := by
  by_cases hp : plen ≤ Config.bufBytes - 4
  · rw [State.buildCore_eq_packet _ _ hp, State.buildCore_eq_packet _ _ hp]
    exact State.agrees_packet h
  · rw [State.buildCore_of_gt (by omega), State.buildCore_of_gt (by omega)]
    exact State.agrees_raiseError _ (by decide)

theorem CommandResult.ne_noError {e : ErrCode} (h : CommandResult s (.error e)) : e ≠ .noError := by
  cases h with
  | failed _ he => exact he

section
variable (hop : s'.echoOperands = s.echoOperands)
  (hpat : ∀ j, j < s.patLen.toNat → s'.patternByte j = s.patternByte j)
include hop hpat

/-- Where the checks pass, every byte of the message from 4 on is an operand's byte or a pattern byte below PATLEN. -/
theorem State.byte_echoFilled_congr (hc : echoCheck s.echoOperands = none) {j : Nat} (h4 : 4 ≤ j)
    (hj : j < s.len.toNat) : s'.echoFilled.byte j = s.echoFilled.byte j := by
  obtain ⟨hlen, hident, hseq, hpatLen⟩ := EchoOperands.mk.inj hop
  by_cases h8 : j < 8
  · rw [State.byte_echoFilled_header h8, State.byte_echoFilled_header h8, State.byte_putIdSeq, State.byte_putIdSeq,
      hident, hseq]
    interval_cases j <;> simp
  · obtain ⟨-, -, hpass⟩ := echoCheck_eq_none.mp hc
    simp only [State.echoOperands] at hpass
    have hk : 0 < s.patLen.toNat := (hpass (by omega)).1
    obtain ⟨m, rfl⟩ := Nat.exists_eq_add_of_le (Nat.le_of_not_lt h8)
    rw [State.byte_echoFilled_filler (by omega), State.byte_echoFilled_filler (by omega), hpatLen,
      hpat _ (Nat.mod_lt _ hk)]

theorem State.agrees_echo (type : Byte) :
    State.Agrees s.len.toNat (s.complete (s.echo type)) (s'.complete (s'.echo type)) := by
  cases hc : echoCheck s.echoOperands with
  | some e =>
    have he : s.echo type = .error e := State.echo_of_check hc
    have hne := CommandResult.ne_noError (he ▸ s.echo_result type)
    rw [he, State.echo_of_check (hop ▸ hc)]
    exact State.agrees_raiseError _ hne
  | none =>
    have hlen : s'.len.toNat = s.len.toNat := (EchoOperands.mk.inj hop).1
    rw [State.echo_eq_packet hc, State.echo_eq_packet (hop ▸ hc), hlen]
    exact State.agrees_packet fun j h4 hj => State.byte_echoFilled_congr hop hpat hc h4 hj

end

end

/-- Settles O22: equal operands fill the buffer from byte 4 on alike, and the packet depends on those bytes only. -/
theorem buildersAreDeterministic : Obligations.BuildersAreDeterministic := by
  refine ⟨fun i s s' t t' hi hlen hident hseq hpatLen hpat ht ht' => ?echo,
    fun i s s' t t' hi hlen htype hcode hbytes ht ht' => ?build⟩
  case echo =>
    have hop : s'.echoOperands = s.echoOperands := by
      simp only [State.echoOperands, hlen, hident, hseq, hpatLen]
    rcases hi with rfl | rfl
    · cases ht
      cases ht'
      exact State.agrees_echo hop hpat 8
    · cases ht
      cases ht'
      exact State.agrees_echo hop hpat 128
  case build =>
    rw [exec_build hi] at ht ht'
    rw [hlen, htype, hcode] at ht'
    cases ht
    cases ht'
    exact State.agrees_buildCore hbytes

end Sys2Proof.Machine
end

section
/-! PROOFS. The host bus (42_host_bus.md): the issue (R133), the BUSY lock (R127), register reads (R136) and writes (R135). -/

namespace Sys2Proof.Machine

/-! Which register an offset names, and whether the lock holds it (R127, R134, R137). -/

/-- The locked offsets, on the whole window: below 0x50 offset by offset, and nothing is listed from there on. -/
theorem regAt_locked_iff {o : Nat} (h4 : o % 4 = 0) :
    (regAt o).locked = true ↔ o ∈ [0x14, 0x18, 0x1C, 0x20, 0x24, 0x28, 0x40, 0x44, 0x48, 0x4C] := by
  by_cases hlow : o < 0x50
  · have hwindow : ∀ k < 20, (regAt (4 * k)).locked = true ↔
        4 * k ∈ [0x14, 0x18, 0x1C, 0x20, 0x24, 0x28, 0x40, 0x44, 0x48, 0x4C] := by decide
    obtain ⟨k, rfl⟩ := Nat.dvd_of_mod_eq_zero h4
    exact hwindow k (by omega)
  · have hmax : Config.patMax = 16 := rfl
    rw [regAt_unlisted h4 (by omega)]
    refine iff_of_false Bool.false_ne_true fun hmem => ?_
    simp only [List.mem_cons, List.not_mem_nil, or_false] at hmem
    omega

theorem classify_pat {j : Nat} (hj : j < Config.patRegs) :
    classify 4 (BitVec.ofNat 17 (0x040 + 4 * j)) = .reg (.pat ⟨j, hj⟩) := by
  have hregs : Config.patRegs = 4 := rfl
  have ha : (BitVec.ofNat 17 (0x040 + 4 * j)).toNat = 0x040 + 4 * j := by
    rw [BitVec.toNat_ofNat, Nat.mod_eq_of_lt (by omega)]
  rw [classify_reg (by omega) (by omega), ha, regAt_pat hj]

/-! What the lock refuses, and what a transaction it lets through does (R127). -/

section
variable {n : Nat} {a : Addr} {s : State} (hb : s.busy = true)
include hb

theorem busRead_buf_busy {i : Nat} (hc : classify n a = .buf i) : busRead n a s = s.refuse := by
  simp [busRead, hc, hb]

theorem busWrite_buf_busy {i : Nat} (v : Word) (hc : classify n a = .buf i) : busWrite n a v s = s.refuse := by
  simp [busWrite, hc, hb]

theorem busWrite_reg_locked {r : Reg} (v : Word) (hc : classify n a = .reg r) (hl : r.locked = true) :
    busWrite n a v s = s.refuse := by
  simp [busWrite, hc, hb, hl]

end

/-- Outside the lock only CTRL and STATUS take a write (R135). -/
theorem regWrite_ignored {r : Reg} (v : Word) (s : State) (hl : r.locked = false) (hctrl : r ≠ .ctrl)
    (hstatus : r ≠ .status) : regWrite r v s = s := by
  cases r with
  | ctrl => exact absurd rfl hctrl
  | status => exact absurd rfl hstatus
  | cmd | len | offset | typecode | idseq | patlen | pat => cases hl
  | id | bufsz | patmax | ck | acc | rawlen | unlisted => rfl

/-- A write of a read-only or unlisted offset only answers OK, BUSY or not. -/
theorem exec_wr32_ignored {a : Addr} (v : Word) (s : State) (hw : a.toNat ≤ 0xFFF) (h4 : a.toNat % 4 = 0)
    (ha : a.toNat ∉ [0x0C, 0x10, 0x14, 0x18, 0x1C, 0x20, 0x24, 0x28, 0x40, 0x44, 0x48, 0x4C]) :
    exec (.wr32 a v) s = .next (s.respond 0) := by
  obtain ⟨hctrl, hstatus, hlock⟩ : a.toNat ≠ 0x0C ∧ a.toNat ≠ 0x10 ∧
      a.toNat ∉ [0x14, 0x18, 0x1C, 0x20, 0x24, 0x28, 0x40, 0x44, 0x48, 0x4C] := by
    simpa only [List.mem_cons, not_or] using ha
  have hl : (regAt a.toNat).locked = false := Bool.eq_false_iff.mpr (mt (regAt_locked_iff h4).mp hlock)
  rw [exec_wr32_reg v (classify_reg hw h4) (by rw [hl, Bool.and_false]),
    regWrite_ignored v s hl (mt regAt_eq_ctrl hctrl) (mt regAt_eq_status hstatus)]

theorem exec_wr32_ctrl (v : Word) (s : State) :
    exec (.wr32 0x0000C#17 v) s = .next ((regWrite .ctrl v s).respond 0) :=
  exec_wr32_reg v (by decide) (Bool.and_false _)

theorem exec_wr32_status (v : Word) (s : State) :
    exec (.wr32 0x00010#17 v) s = .next ((regWrite .status v s).respond 0) :=
  exec_wr32_reg v (by decide) (Bool.and_false _)

/-- Settles O24: the write of CMD is the issue while BUSY = 0, and CMD is locked while BUSY = 1. -/
theorem issueMakesTheCommandPending : Obligations.IssueMakesTheCommandPending := by
  intro s v
  have hc : classify 4 0x00014#17 = .reg .cmd := by decide
  refine ⟨fun hb => ?accepted, fun hb => ?refused⟩
  case accepted =>
    rw [exec_wr32_reg v hc (by rw [hb, Bool.false_and])]
    rfl
  case refused =>
    rw [exec_wr32, busWrite_reg_locked hb v hc rfl]
    rfl

/-- Settles O25: what the address names decides, by the locked offsets of the window, whether the lock refuses. -/
theorem busyLockRefusesAndLetsTheRestProceed : Obligations.BusyLockRefusesAndLetsTheRestProceed := by
  intro s hb
  refine ⟨fun n i a v hn ha hi hm => ?buffer, fun a v ha => ?locked, fun a hw h4 => ?read,
    fun a v hw h4 ha => exec_wr32_ignored v s hw h4 ha, fun v => exec_wr32_ctrl v s, fun v => exec_wr32_status v s⟩
  case buffer =>
    have hc : classify n a = .buf i := classify_buf hn ha hi hm
    rw [exec_readInstr hn, exec_writeInstr hn, busRead_buf_busy hb hc, busWrite_buf_busy hb v hc]
    exact ⟨rfl, rfl⟩
  case locked =>
    obtain ⟨hw, h4⟩ : a.toNat ≤ 0xFFF ∧ a.toNat % 4 = 0 := by
      simp only [List.mem_cons, List.not_mem_nil, or_false] at ha
      omega
    rw [exec_wr32, busWrite_reg_locked hb v (classify_reg hw h4) ((regAt_locked_iff h4).mpr ha)]
    rfl
  case read =>
    refine ⟨regRead (regAt a.toNat) s, ?_⟩
    rw [exec_rd32, busRead_reg s (classify_reg hw h4)]
    rfl

/-! The effect of each register's write (R135). -/

/-- The offsets with no register behind them are none of those that take a write (R137). -/
theorem not_mem_written_of_unlisted {o : Nat} (h : o = 0x038 ∨ o = 0x03C ∨ 0x040 + Config.patMax ≤ o) :
    o ∉ [0x0C, 0x10, 0x14, 0x18, 0x1C, 0x20, 0x24, 0x28, 0x40, 0x44, 0x48, 0x4C] := by
  have hmax : Config.patMax = 16 := rfl
  simp only [List.mem_cons, List.not_mem_nil, or_false]
  omega

/-- Settles O28: the registers that ignore a write, CTRL and STATUS, and the locked ones while BUSY = 0. -/
theorem registerWritesHaveTheirEffect : Obligations.RegisterWritesHaveTheirEffect := by
  intro s v
  refine ⟨fun a ha => ?readOnly, exec_wr32_ctrl v s, exec_wr32_status v s, fun hb => ?operands,
    fun a hw h4 ha => exec_wr32_ignored v s hw h4 (not_mem_written_of_unlisted ha)⟩
  case readOnly =>
    simp only [List.mem_cons, List.not_mem_nil, or_false] at ha
    refine exec_wr32_ignored v s (by omega) (by omega) ?_
    simp only [List.mem_cons, List.not_mem_nil, or_false]
    omega
  case operands =>
    have hwrite {a : Addr} {r : Reg} (hc : classify 4 a = .reg r) :
        exec (.wr32 a v) s = .next ((regWrite r v s).respond 0) :=
      exec_wr32_reg v hc (by rw [hb, Bool.false_and])
    have hlen : classify 4 0x00018#17 = .reg .len := by decide
    have hoffset : classify 4 0x0001C#17 = .reg .offset := by decide
    have hpatLen : classify 4 0x00028#17 = .reg .patlen := by decide
    have htypecode : classify 4 0x00020#17 = .reg .typecode := by decide
    have hidseq : classify 4 0x00024#17 = .reg .idseq := by decide
    refine ⟨hwrite hlen, hwrite hoffset, hwrite hpatLen, ⟨byteOf v 0, byteOf v 1, hwrite htypecode, ?type, ?code⟩,
      ⟨v.extractLsb' 0 16, v.extractLsb' 16 16, hwrite hidseq, ?ident, ?seq⟩, fun j hj => hwrite (classify_pat hj)⟩
    case type => rw [byteOf_toNat, Nat.pow_zero, Nat.div_one]
    case code => rw [byteOf_toNat, Nat.pow_one]
    case ident => rw [BitVec.extractLsb'_toNat, Nat.shiftRight_zero]
    case seq =>
      have hv := v.isLt
      rw [BitVec.extractLsb'_toNat, Nat.shiftRight_eq_div_pow]
      omega

/-! What each register reads (R136). -/

/-- Concatenated fields as a number. -/
theorem toNat_append_eq_add {m n : Nat} (x : BitVec m) (y : BitVec n) :
    (x ++ y).toNat = 2 ^ n * x.toNat + y.toNat := by
  rw [BitVec.toNat_append, ← Nat.shiftLeft_add_eq_or_of_lt y.isLt, Nat.shiftLeft_eq, Nat.mul_comm]

theorem State.errBit_eq (s : State) : s.errBit = decide (s.err ≠ .noError) := by
  rw [State.errBit]
  cases s.err <;> rfl

theorem State.statusWord_toNat (s : State) :
    s.statusWord.toNat = 16 * s.err.code.toNat + 8 * s.ovr.toNat + 4 * (decide (s.err ≠ .noError)).toNat +
      2 * s.done.toNat + s.pending.isSome.toNat := by
  simp only [State.statusWord, toNat_append_eq_add, BitVec.toNat_ofBool, BitVec.toNat_ofNat, State.errBit_eq, State.busy]
  omega

theorem exec_rd32_reads {a : Addr} {r : Reg} {s : State} {x : Nat} (hc : classify 4 a = .reg r)
    (hx : (regRead r s).toNat = x) :
    ∃ v : Word, exec (.rd32 a) s = .next { s with rsp := some ⟨false, v⟩ } ∧ v.toNat = x :=
  ⟨regRead r s, by rw [exec_rd32, busRead_reg s hc]; rfl, hx⟩

/-- Settles O27: each offset names its register, and the register's value has the fields of its rule. -/
theorem registerReadsReturnTheRegisters : Obligations.RegisterReadsReturnTheRegisters := by
  intro s Reads errorNumber
  have hctrl : (regRead .ctrl s).toNat = s.ie.toNat := by
    rw [regRead, BitVec.toNat_setWidth_of_le (by decide), BitVec.toNat_ofBool]
  have hcode : s.err.code.toNat = errorNumber := by
    simp only [errorNumber]
    cases s.err <;> rfl
  have hstatus := hcode ▸ s.statusWord_toNat
  have htypecode : (regRead .typecode s).toNat = 256 * s.msgCode.toNat + s.msgType.toNat := by
    simp only [regRead, toNat_append_eq_add, BitVec.toNat_ofNat]
    omega
  have hidseq : (regRead .idseq s).toNat = 65536 * s.seq.toNat + s.ident.toNat := toNat_append_eq_add _ _
  have hck : (regRead .ck s).toNat = s.ck.toNat := BitVec.toNat_setWidth_of_le (by decide)
  exact ⟨exec_rd32_reads (r := .id) (by decide) rfl, exec_rd32_reads (r := .bufsz) (by decide) rfl,
    exec_rd32_reads (r := .patmax) (by decide) rfl, exec_rd32_reads (by decide) hctrl,
    exec_rd32_reads (r := .status) (by decide) hstatus, exec_rd32_reads (r := .cmd) (by decide) rfl,
    exec_rd32_reads (r := .len) (by decide) rfl, exec_rd32_reads (r := .offset) (by decide) rfl,
    exec_rd32_reads (by decide) htypecode, exec_rd32_reads (by decide) hidseq,
    exec_rd32_reads (r := .patlen) (by decide) rfl, exec_rd32_reads (by decide) hck,
    exec_rd32_reads (r := .acc) (by decide) rfl, exec_rd32_reads (r := .rawlen) (by decide) rfl,
    fun j hj => exec_rd32_reads (classify_pat hj) rfl,
    fun a hw h4 ha => exec_rd32_reads ((classify_reg hw h4).trans (by rw [regAt_unlisted h4 ha])) rfl⟩

end Sys2Proof.Machine
end

section
/-! PROOFS. Command errors (60_exceptions.md): the error entry is the whole effect of a command that fails (R144). -/

namespace Sys2Proof.Machine

/-- A completion that leaves an error code has taken the error entry and nothing else: a built result finishes without one. -/
theorem State.complete_eq_raiseError {s : State} {r : Except ErrCode State} (hr : CommandResult s r)
    (hne : (s.complete r).err ≠ .noError) : s.complete r = s.raiseError (s.complete r).err := by
  cases hr with
  | failed e he => rfl
  | built u n off hu => exact absurd rfl hne

/-- Settles O20: the completion is the error entry from the old state, which keeps BUF, CK and ACC. -/
theorem commandErrorsHaveNoPartialEffect : Obligations.CommandErrorsHaveNoPartialEffect := by
  intro i s t hi ht hne
  obtain ⟨r, hr, hexec⟩ := exec_command s hi
  rw [hexec] at ht
  cases ht
  have hentry := State.complete_eq_raiseError hr hne
  refine ⟨hentry, ?ck, ?acc, fun j => ?byte⟩
  case ck => rw [hentry, State.raiseError_ck]
  case acc => rw [hentry, State.raiseError_acc]
  case byte => rw [hentry, State.byte_raiseError]

end Sys2Proof.Machine
end

section
/-! PROOFS. The encoding's round trip (30_encoding.md sections 1 and 3): decode after encode, encode after decode, and the rows
of the opcode table. -/

namespace Sys2Proof

/-- The datum of a well-formed n-byte write is its own low 8n bits (20_memory.md R64). -/
theorem lowBytes_of_lt {n : Nat} {v : Word} (h : v.toNat < 2 ^ (8 * n)) : lowBytes n v = v :=
  BitVec.eq_of_toNat_eq (by rw [lowBytes_toNat, Nat.mod_eq_of_lt h])

theorem decode_encode {i : Instr} (h : i.WellFormed = true) : decode (encode i) = .ok i := by
  cases i with
  | cksum | build4 | build6 | echo4 | echo6 => rfl
  | rd8 | rd16 | rd32 | wr32 => rfl
  | wr8 a v =>
    have hv : v.toNat < 2 ^ 8 := of_decide_eq_true h
    rw [encode, decode, decodeBus_size1 rfl, if_pos rfl, lowBytes_of_lt (n := 1) hv]
  | wr16 a v =>
    have hv : v.toNat < 2 ^ 16 := of_decide_eq_true h
    rw [encode, decode, decodeBus_size2 rfl, if_pos rfl, lowBytes_of_lt (n := 2) hv]

theorem encode_of_decodeCmd {w : Word} {i : Instr} (h : decodeCmd w = .ok i) :
    i.WellFormed = true ∧ encode i = .cmd w := by
  rcases (decodeCmd_eq_ok_iff w i).mp h with ⟨rfl, rfl⟩ | ⟨rfl, rfl⟩ | ⟨rfl, rfl⟩ | ⟨rfl, rfl⟩ | ⟨rfl, rfl⟩ <;>
    exact ⟨rfl, by decide⟩

theorem lowBytes_lt (n : Nat) (v : Word) : (lowBytes n v).toNat < 2 ^ (8 * n) := by
  rw [lowBytes_toNat]
  exact Nat.mod_lt _ (Nat.two_pow_pos _)

theorem size_cases (n : BitVec 2) : n = 0b00#2 ∨ n = 0b01#2 ∨ n = 0b10#2 ∨ n = 0b11#2 := by
  revert n
  decide

/-- A request comes back with its direction, size and address, and with the datum its transaction uses. -/
theorem encode_of_decodeBus {r : Request} {i : Instr} (h : decodeBus r = .ok i) :
    i.WellFormed = true ∧ ∃ v : Word, encode i = .bus { r with wdata := v } ∧
      (r.we = false → v = 0) ∧ (r.we = true → v.toNat = r.wdata.toNat % 2 ^ (8 * 2 ^ r.size.toNat)) := by
  obtain ⟨we, size, addr, wdata⟩ := r
  rcases size_cases size with rfl | rfl | rfl | rfl
  · rw [decodeBus_size1 rfl] at h
    cases we with
    | false =>
      cases h
      exact ⟨rfl, 0, rfl, fun _ => rfl, nofun⟩
    | true =>
      cases h
      exact ⟨decide_eq_true (lowBytes_lt 1 wdata), _, rfl, nofun, fun _ => lowBytes_toNat 1 wdata⟩
  · rw [decodeBus_size2 rfl] at h
    cases we with
    | false =>
      cases h
      exact ⟨rfl, 0, rfl, fun _ => rfl, nofun⟩
    | true =>
      cases h
      exact ⟨decide_eq_true (lowBytes_lt 2 wdata), _, rfl, nofun, fun _ => lowBytes_toNat 2 wdata⟩
  · rw [decodeBus_size4 rfl] at h
    cases we with
    | false =>
      cases h
      exact ⟨rfl, 0, rfl, fun _ => rfl, nofun⟩
    | true =>
      cases h
      exact ⟨rfl, wdata, rfl, nofun, fun _ => (Nat.mod_eq_of_lt wdata.isLt).symm⟩
  · rw [decodeBus_reserved rfl] at h
    cases h

/-- Settles O6: row by row; a write's datum comes back because a well-formed one fits its width. -/
theorem decodeOfEncodeIsTheInstruction : Obligations.DecodeOfEncodeIsTheInstruction := fun _ => decode_encode

/-- Settles O7: the matched command word is the row's own, and a request keeps the bits its transaction uses. -/
theorem encodeOfDecodeIsTheEncoding : Obligations.EncodeOfDecodeIsTheEncoding :=
  ⟨fun _ _ => encode_of_decodeCmd, fun _ _ => encode_of_decodeBus⟩

/-- Settles O8, by running the decoder on each word. -/
theorem opcodeTableWordsDecode : Obligations.OpcodeTableWordsDecode := by
  unfold Obligations.OpcodeTableWordsDecode
  decide

end Sys2Proof
end

section
/-! PROOFS. The step (20_memory.md section 5): what each kind of next move is, the reset, and one inversion of the whole step. -/

namespace Sys2Proof.Machine

/-! The next move, by the head of the order (R77). -/

section
variable {s : State} {es : List Event}

theorem fetch_nil (he : s.events = []) : fetch s = fetchEngine s := by
  rw [fetch, he]

theorem fetch_host {r : Request} (he : s.events = .host r :: es) :
    fetch s = fetchHost r { s with events := es } := by
  rw [fetch, he]

theorem fetch_engine (he : s.events = .engine :: es) : fetch s = fetchEngine { s with events := es } := by
  rw [fetch, he]

theorem fetch_reset (he : s.events = .reset :: es) :
    fetch s = .settled (State.resetEvent { s with events := es }) := by
  rw [fetch, he]

theorem fetchHost_of_decode {r : Request} {i : Instr} (u : State) (hd : decodeBus r = .ok i) :
    fetchHost r u = .run i u := by
  rw [fetchHost, hd]

theorem fetchEngine_idle (hp : s.pending = none) : fetchEngine s = .settled s := by
  rw [fetchEngine, hp]

theorem fetchEngine_command {w : Word} {i : Instr} (hp : s.pending = some w) (hd : decodeCmd w = .ok i) :
    fetchEngine s = .run i s := by
  simp only [fetchEngine, hp, hd]

theorem fetchEngine_illegal {w : Word} {e : Reject} (hp : s.pending = some w) (hd : decodeCmd w = .error e) :
    fetchEngine s = .settled (s.raiseError .illegalCmd) := by
  simp only [fetchEngine, hp, hd]

theorem step_of_run {i : Instr} {u : State} (hf : fetch s = .run i u) : step s = exec i u := by
  rw [step, hf]

theorem step_of_settled {u : State} (hf : fetch s = .settled u) : step s = .next u := by
  rw [step, hf]

/-- A reset event is taken whatever the state (70_reset_and_hazards.md R160). -/
theorem step_reset (he : s.events = .reset :: es) : step s = .next (State.resetEvent { s with events := es }) :=
  step_of_settled (fetch_reset he)

end

/-- Settles O1: the fetch names the decoded instruction and the state it runs on. -/
theorem stepRunsTheDecodedInstruction : Obligations.StepRunsTheDecodedInstruction := by
  intro s i
  refine ⟨fun r es he hd => ?host, fun w es he hp hd => ?engine, fun w he hp hd => ?empty⟩
  case host => exact step_of_run ((fetch_host he).trans (fetchHost_of_decode _ hd))
  case engine => exact step_of_run ((fetch_engine he).trans (fetchEngine_command hp hd))
  case empty => exact step_of_run ((fetch_nil he).trans (fetchEngine_command hp hd))

/-- Settles O2: the engine's turn settles on the state it finds when nothing is pending. -/
theorem idleBlockKeepsItsState : Obligations.IdleBlockKeepsItsState :=
  fun _ hp => ⟨fun he => step_of_settled ((fetch_nil he).trans (fetchEngine_idle hp)),
    fun _ he => step_of_settled ((fetch_engine he).trans (fetchEngine_idle hp))⟩

/-- A pending word that is no command completes with ILLEGAL_CMD, at an engine moment and on the empty order (R142). -/
theorem step_illegal {s : State} {w : Word} {e : Reject} (hp : s.pending = some w) (hd : decodeCmd w = .error e) :
    (∀ es, s.events = .engine :: es → step s = .next { s.failed .illegalCmd with events := es }) ∧
    (s.events = [] → step s = .next (s.failed .illegalCmd)) :=
  ⟨fun _ he => step_of_settled ((fetch_engine he).trans (fetchEngine_illegal hp hd)),
    fun he => step_of_settled ((fetch_nil he).trans (fetchEngine_illegal hp hd))⟩

theorem decodeCmd_of_not_mem {w : Word}
    (hw : w ∉ [0x00000001#32, 0x00000002#32, 0x00000012#32, 0x00000003#32, 0x00000013#32]) :
    decodeCmd w = .error (.illegalCmd w) := by
  simp only [List.mem_cons, List.not_mem_nil, or_false, not_or] at hw
  obtain ⟨h1, h2, h3, h4, h5⟩ := hw
  rw [decodeCmd, if_neg h1, if_neg h2, if_neg h3, if_neg h4, if_neg h5]

/-- Settles O3: a word outside the table is rejected, and the engine's turn is then the error entry. -/
theorem illegalWordCompletesWithIllegalCmd : Obligations.IllegalWordCompletesWithIllegalCmd :=
  fun _ _ hp hw => (step_illegal hp (decodeCmd_of_not_mem hw)).symm

/-! Reset (70_reset_and_hazards.md R160, R161). -/

/-- A register reads the same after a reset event as at the model's start: the epoch and the order are no register. -/
theorem regRead_resetEvent (r : Reg) (s : State) : regRead r s.resetEvent = regRead r State.reset := by
  cases r <;> rfl

theorem regRead_reset (r : Reg) : regRead r State.reset =
    match r with
    | .id => 0x49434D50#32
    | .bufsz => 0x00010000#32
    | .patmax => 0x00000010#32
    | _ => 0#32 := by
  cases r with
  | id | bufsz | patmax | cmd | len | offset | patlen | acc | rawlen | unlisted => rfl
  | ctrl | status | typecode | idseq | ck => decide
  | pat j => exact Vector.getElem_replicate _

/-- Settles O9: the reset event leaves the registers of State.reset, and those read their reset values. -/
theorem resetLeavesTheResetValues : Obligations.ResetLeavesTheResetValues :=
  ⟨⟨rfl, rfl, rfl, regRead_reset⟩, fun _ _ he =>
    ⟨_, step_reset he, rfl, rfl, rfl, rfl, fun r => (regRead_resetEvent r _).trans (regRead_reset r)⟩⟩

/-- Settles O10: the reset event empties the list of written bytes and counts the epoch up. -/
theorem resetDrawsTheBufferAnew : Obligations.ResetDrawsTheBufferAnew :=
  fun _ _ he => ⟨_, step_reset he, rfl, State.byte_resetEvent _⟩

/-! Everything a step can do. -/

/-- The state with the head of the total order taken off (20_memory.md R77). -/
def State.advance (s : State) : State := { s with events := s.events.tail }

/-- What a step makes of `s`: only the response port and OVR move, or a host writes one register or buffer bytes that the lock
does not hold, or the pending word completes (a word that is no command as the error ILLEGAL_CMD), or the block is reset. -/
inductive StepResult (s : State) : State → Prop where
  | quiet (ovr : Bool) (rsp : Option Response) (hovr : s.ovr = true → ovr = true) :
      StepResult s { s.advance with ovr := ovr, rsp := rsp }
  | wroteReg (req : Request) (a : Addr) (v : Word) (r : Reg) (he : s.events = .host req :: s.events.tail)
      (hd : decodeBus req = .ok (.wr32 a v)) (hr : classify 4 a = .reg r) (hl : (s.busy && r.locked) = false) :
      StepResult s ((regWrite r v s.advance).respond 0)
  | wroteBuf (n k : Nat) (v : Word) (hk : k + n ≤ Config.bufBytes) (hb : s.busy = false) :
      StepResult s ((State.writeLE k v n s.advance).respond 0)
  | completed (w : Word) (r : Except ErrCode State) (hp : s.pending = some w) (hr : CommandResult s.advance r) :
      StepResult s (s.advance.complete r)
  | reset (he : s.events = .reset :: s.events.tail) : StepResult s s.advance.resetEvent

/-- A transaction's result is a step's result when its request stands first in the order. -/
theorem TransactionResult.stepResult {s t : State} {req : Request} {i : Instr}
    (he : s.events = .host req :: s.events.tail) (hd : decodeBus req = .ok i)
    (ht : TransactionResult i s.advance t) : StepResult s t := by
  cases ht with
  | answered v => exact .quiet s.ovr _ id
  | bad => exact .quiet s.ovr _ id
  | refused => exact .quiet true _ fun _ => rfl
  | wroteReg a v r hi hr hl => exact .wroteReg req a v r he (hi ▸ hd) hr hl
  | wroteBuf n k v hk hb => exact .wroteBuf n k v hk hb

/-- Every step answers a next state, which is one of these results. -/
theorem step_result (s : State) : ∃ t, step s = .next t ∧ StepResult s t := by
  rcases step_cases s with ⟨req, i, he, hd, hs⟩ | ⟨req, -, -, hs⟩ | ⟨-, hs⟩ | ⟨w, i, hp, hd, hs⟩ | ⟨w, hp, -, hs⟩ | ⟨he, hs⟩
  · obtain ⟨t, ht, hres⟩ := exec_transaction s.advance (decodeBus_isTransaction hd)
    exact ⟨t, hs.trans ht, hres.stepResult he hd⟩
  · exact ⟨_, hs, .quiet s.ovr _ id⟩
  · exact ⟨_, hs, .quiet s.ovr s.rsp id⟩
  · obtain ⟨r, hr, ht⟩ := exec_command s.advance (decodeCmd_isCommand hd)
    exact ⟨_, hs.trans ht, .completed w r hp hr⟩
  · exact ⟨_, hs, .completed w (.error .illegalCmd) hp (.failed _ (by decide))⟩
  · exact ⟨_, hs, .reset he⟩

theorem stepResult_of_step {s t : State} (h : step s = .next t) : StepResult s t := by
  obtain ⟨t', ht', hres⟩ := step_result s
  cases h.symm.trans ht'
  exact hres

/-- Settles O39: each of the step's results is a next state. -/
theorem everyStepAnswersANextState : Obligations.EveryStepAnswersANextState := fun s =>
  (step_result s).imp fun _ h => h.1

/-! The order is used up, and then nothing stays pending (R76, log entry 2). -/

theorem StepResult.events_eq {s t : State} (h : StepResult s t) : t.events = s.events.tail := by
  cases h with
  | quiet | reset => rfl
  | wroteReg req a v r =>
    obtain ⟨-, -, hevents, -⟩ := regWrite_frame r v s.advance
    exact hevents
  | wroteBuf n k v =>
    rw [s.advance.bufOnly_writeLE k v n]
    rfl
  | completed w r hp hr =>
    obtain ⟨-, -, -, -, -, -, -, hevents⟩ := State.complete_frame hr
    exact hevents

/-- On the empty order the engine moves, so a pending command completes. -/
theorem pending_of_step_nil {s t : State} (he : s.events = []) (h : step s = .next t) : t.pending = none := by
  have hfetch := fetch_nil he
  rcases fetchEngine_cases s with ⟨hp, hf⟩ | ⟨w, i, -, hd, hf⟩ | ⟨w, -, -, hf⟩
  · cases (step_of_settled (hfetch.trans hf)).symm.trans h
    exact hp
  · obtain ⟨r, hr, hexec⟩ := exec_command s (decodeCmd_isCommand hd)
    obtain ⟨hpending, -⟩ := State.complete_frame hr
    cases ((step_of_run (hfetch.trans hf)).trans hexec).symm.trans h
    exact hpending
  · cases (step_of_settled (hfetch.trans hf)).symm.trans h
    rfl

/-- Settles O40, by induction on the rest of the order: each step takes its head, and the last finds it empty. -/
theorem pendingCommandsEventuallyComplete : Obligations.PendingCommandsEventuallyComplete := by
  intro s
  induction hn : s.events.length generalizing s with
  | zero =>
    obtain ⟨t, ht, hres⟩ := step_result s
    have he : s.events = [] := List.eq_nil_of_length_eq_zero hn
    have hevents : t.events = [] := by rw [hres.events_eq, he, List.tail_nil]
    exact ⟨t, by rw [core_run_succ 0 ht, core_run_zero], pending_of_step_nil he ht, hevents⟩
  | succ n ih =>
    obtain ⟨t, ht, hres⟩ := step_result s
    rw [core_run_succ (n + 1) ht]
    exact ih t (by rw [hres.events_eq, List.length_tail, hn, Nat.add_sub_cancel])

end Sys2Proof.Machine
end

section
/-! PROOFS. The invariant (10_state.md section 3, 40_checksum.md R107): it holds after reset and every step keeps it. -/

namespace Sys2Proof.Machine

/-- The invariant speaks of the buffer, the pending command, DONE, ERRCODE, RAWLEN and ACC only. -/
theorem State.Inv.congr {s t : State} (h : s.Inv) (hbuf : t.buf = s.buf) (hpending : t.pending = s.pending)
    (hdone : t.done = s.done) (herr : t.err = s.err) (hrawLen : t.rawLen = s.rawLen) (hacc : t.acc = s.acc) : t.Inv where
  buf_wf := by rw [hbuf]; exact h.buf_wf
  busy_clear := by rw [State.busy, hpending, hdone, herr]; exact h.busy_clear
  error_rawLen := by rw [herr, hrawLen]; exact h.error_rawLen
  rawLen_le := by rw [hrawLen]; exact h.rawLen_le
  acc_le := by rw [hacc]; exact h.acc_le

theorem State.Inv.advance {s : State} (h : s.Inv) : s.advance.Inv := h.congr rfl rfl rfl rfl rfl rfl

theorem State.Inv.respond {s : State} (h : s.Inv) (v : Word) : (s.respond v).Inv := h.congr rfl rfl rfl rfl rfl rfl

/-- Settles O37: every clause is about a reset value. -/
theorem invariantHoldsAfterReset : Obligations.InvariantHoldsAfterReset where
  buf_wf := rfl
  busy_clear := nofun
  error_rawLen := fun _ => rfl
  rawLen_le := Nat.zero_le _
  acc_le := Nat.zero_le _

theorem State.inv_resetEvent (s : State) : s.resetEvent.Inv :=
  State.Inv.congr invariantHoldsAfterReset rfl rfl rfl rfl rfl rfl

/-- The acknowledgement can only clear DONE, so a busy block's DONE stays 0. -/
theorem State.Inv.writeStatus {s : State} (h : s.Inv) (v : Word) : (s.writeStatus v).Inv where
  buf_wf := h.buf_wf
  busy_clear hb := by
    obtain ⟨hdone, herr⟩ := h.busy_clear hb
    exact ⟨by rw [State.writeStatus_done, hdone, Bool.false_and], herr⟩
  error_rawLen := h.error_rawLen
  rawLen_le := h.rawLen_le
  acc_le := h.acc_le

/-- The issue clears DONE and ERRCODE as it makes the command pending. -/
theorem State.Inv.issue {s : State} (h : s.Inv) (v : Word) : (s.issue v).Inv where
  buf_wf := h.buf_wf
  busy_clear _ := ⟨rfl, rfl⟩
  error_rawLen he := absurd rfl he
  rawLen_le := h.rawLen_le
  acc_le := h.acc_le

theorem State.Inv.regWrite {s : State} (h : s.Inv) (r : Reg) (v : Word) : (regWrite r v s).Inv := by
  cases r with
  | cmd => exact h.issue v
  | status => exact h.writeStatus v
  | id | bufsz | patmax | ck | acc | rawlen | unlisted => exact h
  | ctrl | len | offset | typecode | idseq | patlen | pat => exact h.congr rfl rfl rfl rfl rfl rfl

/-- A buffer write inside BUF_BYTES keeps the canonical form and touches nothing else. -/
theorem State.Inv.writeLE {s : State} (h : s.Inv) {k n : Nat} (v : Word) (hk : k + n ≤ Config.bufBytes) :
    (State.writeLE k v n s).Inv := by
  have hwf : Memory.wf (State.writeLE k v n s).buf = true := State.wf_writeLE v h.buf_wf hk
  rw [s.bufOnly_writeLE k v n]
  exact ⟨hwf, h.busy_clear, h.error_rawLen, h.rawLen_le, h.acc_le⟩

theorem acc32_le (rd : Nat → Byte) {n : Nat} (hn : n ≤ Config.bufBytes) : (acc32 rd n).toNat ≤ 0x7FFF8000 := by
  rw [acc32_toNat rd hn, ← sumBytes_eq_byteSum]
  exact sumBytes_le rd hn

/-- A completion leaves nothing pending; an error clears RAWLEN, a success sets it and ACC within their bounds. -/
theorem State.Inv.complete {s : State} (h : s.Inv) {r : Except ErrCode State} (hr : CommandResult s r) :
    (s.complete r).Inv := by
  cases hr with
  | failed e he => exact ⟨h.buf_wf, nofun, fun _ => rfl, Nat.zero_le _, h.acc_le⟩
  | built u n off hu hwf hframe hoff hn =>
    rw [State.complete_ok]
    refine ⟨?buf, nofun, fun he => absurd rfl he, ?rawLen, ?acc⟩
    case buf =>
      rw [State.finish_buf]
      exact State.wf_insertChecksum n (hwf h.buf_wf) (by omega)
    case rawLen =>
      rw [State.finish_rawLen, State.rawLen_insertChecksum, BitVec.toNat_ofNat]
      exact (Nat.mod_le _ _).trans hn
    case acc =>
      rw [State.finish_acc, State.acc_insertChecksum]
      exact acc32_le _ hn

/-- Settles O38: each result of a step keeps the invariant. -/
theorem stepKeepsTheInvariant : Obligations.StepKeepsTheInvariant := by
  intro s t h hstep
  cases stepResult_of_step hstep with
  | quiet => exact h.congr rfl rfl rfl rfl rfl rfl
  | wroteReg req a v r => exact (h.advance.regWrite r v).respond 0
  | wroteBuf n k v hk => exact (h.advance.writeLE v hk).respond 0
  | completed w r hp hr => exact h.advance.complete hr
  | reset => exact s.advance.inv_resetEvent

end Sys2Proof.Machine
end

section
/-! PROOFS. What a step of any run may change: the operand registers (10_state.md R21), OVR (R28), ERRCODE (60_exceptions.md R151),
irq (R147), and what the pending command keeps (20_memory.md R76). -/

namespace Sys2Proof.Machine

/-! BUSY (10_state.md R41). -/

section
variable {s : State}

theorem State.busy_of_some {w : Word} (hp : s.pending = some w) : s.busy = true := by
  rw [State.busy, hp, Option.isSome_some]

theorem State.busy_of_none (hp : s.pending = none) : s.busy = false := by
  rw [State.busy, hp, Option.isSome_none]

end

/-! What one register write changes (42_host_bus.md R135). -/

theorem State.sameOperands_refl (s : State) : s.SameOperands s := ⟨rfl, rfl, rfl, rfl, rfl, rfl, rfl, rfl⟩

theorem State.BufOnly.sameOperands {s t : State} (h : s.BufOnly t) : s.SameOperands t := by
  rw [h]
  exact s.sameOperands_refl

section
variable {r : Reg} (v : Word) (s : State)

theorem regWrite_ovr (hr : r ≠ .status) : (regWrite r v s).ovr = s.ovr := by
  cases r with
  | status => exact absurd rfl hr
  | id | bufsz | patmax | ctrl | cmd | len | offset | typecode | idseq | patlen | ck | acc | rawlen | pat | unlisted => rfl

theorem regWrite_ie (hr : r ≠ .ctrl) : (regWrite r v s).ie = s.ie := by
  cases r with
  | ctrl => exact absurd rfl hr
  | id | bufsz | patmax | status | cmd | len | offset | typecode | idseq | patlen | ck | acc | rawlen | pat | unlisted => rfl

/-- No register write sets DONE. -/
theorem done_of_regWrite (h : (regWrite r v s).done = true) : s.done = true := by
  cases r with
  | status => exact (Bool.and_eq_true_iff.mp h).1
  | cmd => cases h
  | id | bufsz | patmax | ctrl | len | offset | typecode | idseq | patlen | ck | acc | rawlen | pat | unlisted => exact h

end

/-! The addresses of the three registers whose writes the rules name (10_state.md R23). -/

section
variable {a : Addr}

theorem addr_eq_of_classify_ctrl (h : classify 4 a = .reg .ctrl) : a = 0x0000C#17 := by
  obtain ⟨-, -, hr⟩ := classify_reg_eq h
  exact BitVec.eq_of_toNat_eq (regAt_eq_ctrl hr.symm)

theorem addr_eq_of_classify_status (h : classify 4 a = .reg .status) : a = 0x00010#17 := by
  obtain ⟨-, -, hr⟩ := classify_reg_eq h
  exact BitVec.eq_of_toNat_eq (regAt_eq_status hr.symm)

theorem addr_eq_of_classify_cmd (h : classify 4 a = .reg .cmd) : a = 0x00014#17 := by
  obtain ⟨-, -, hr⟩ := classify_reg_eq h
  exact BitVec.eq_of_toNat_eq (regAt_eq_cmd hr.symm)

end

/-! The rules, one case per result of a step. -/

/-- Settles O34: while BUSY = 1 the lock leaves a host write only registers that are no operand and no result. -/
theorem pendingCommandKeepsItsOperands : Obligations.PendingCommandKeepsItsOperands := by
  intro s t w hw hstep
  have hbusy : s.busy = true := State.busy_of_some hw
  cases stepResult_of_step hstep with
  | quiet => exact .inl ⟨hw, s.sameOperands_refl, fun _ => rfl, rfl, rfl, rfl, rfl⟩
  | wroteReg req a v r he hd hr hl =>
    rw [hbusy, Bool.true_and] at hl
    have hne : r ≠ .cmd := by
      rintro rfl
      cases hl
    obtain ⟨hpending, herr⟩ := regWrite_pending v s.advance hne
    obtain ⟨hbuf, hepoch, -, hck, hacc, hrawLen, -⟩ := regWrite_frame r v s.advance
    exact .inl ⟨hpending.trans hw, regWrite_operands v s.advance hl, State.byte_congr hbuf hepoch, hck, hacc, hrawLen, herr⟩
  | wroteBuf n k v hk hb =>
    rw [hbusy] at hb
    cases hb
  | completed w r hp hr =>
    obtain ⟨hpending, hdone, hops, hovr, hie, -⟩ := State.complete_frame hr
    exact .inr (.inl ⟨hpending, hdone, hops, hovr, hie⟩)
  | reset he => exact .inr (.inr ⟨_, he, rfl⟩)

/-- Settles O33: only the write of a register the lock holds touches an operand, and it needs BUSY = 0. -/
theorem operandsChangeOnlyByHostWriteOrReset : Obligations.OperandsChangeOnlyByHostWriteOrReset := by
  intro s t hstep hchange
  cases stepResult_of_step hstep with
  | quiet => exact absurd s.sameOperands_refl hchange
  | wroteReg req a v r he hd hr hl =>
    have hlocked : r.locked = true := by
      by_contra hfree
      exact hchange (regWrite_operands v s.advance (Bool.eq_false_iff.mpr hfree))
    obtain ⟨hwindow, -⟩ := classify_reg_eq hr
    rw [hlocked, Bool.and_true] at hl
    exact .inl ⟨req, _, a, v, he, hd, hwindow, hl⟩
  | wroteBuf n k v => exact absurd (s.advance.bufOnly_writeLE k v n).sameOperands hchange
  | completed w r hp hr =>
    obtain ⟨-, -, hops, -⟩ := State.complete_frame hr
    exact absurd hops hchange
  | reset he => exact .inr ⟨_, he⟩

/-- Settles O35: of all writes only that of STATUS touches OVR, and it clears OVR by bit 3 alone. -/
theorem ovrIsSticky : Obligations.OvrIsSticky := by
  intro s t hstep hset
  cases stepResult_of_step hstep with
  | quiet ovr rsp hovr => exact .inl (hovr hset)
  | wroteReg req a v r he hd hr hl =>
    by_cases hstatus : r = .status
    · subst hstatus
      cases hbit : v.getLsbD 3 with
      | true => exact .inr (.inl ⟨req, _, v, he, addr_eq_of_classify_status hr ▸ hd, hbit⟩)
      | false =>
        refine .inl ((State.writeStatus_ovr s.advance v).trans ?_)
        rw [hbit, Bool.not_false, Bool.and_true]
        exact hset
    · exact .inl ((regWrite_ovr v s.advance hstatus).trans hset)
  | wroteBuf n k v =>
    rw [s.advance.bufOnly_writeLE k v n]
    exact .inl hset
  | completed w r hp hr =>
    obtain ⟨-, -, -, hovr, -⟩ := State.complete_frame hr
    exact .inl (hovr.trans hset)
  | reset he => exact .inr (.inr ⟨_, he⟩)

/-- Settles O36: only an issue or a completion writes ERRCODE, and by the invariant a block with an error has nothing pending. -/
theorem errcodeStaysUntilIssueOrReset : Obligations.ErrcodeStaysUntilIssueOrReset := by
  intro s t hinv hstep herror
  cases stepResult_of_step hstep with
  | quiet => exact .inl rfl
  | wroteReg req a v r he hd hr hl =>
    by_cases hcmd : r = .cmd
    · subst hcmd
      exact .inr (.inl ⟨req, _, v, he, addr_eq_of_classify_cmd hr ▸ hd, rfl, rfl⟩)
    · obtain ⟨-, herr⟩ := regWrite_pending v s.advance hcmd
      exact .inl herr
  | wroteBuf n k v =>
    rw [s.advance.bufOnly_writeLE k v n]
    exact .inl rfl
  | completed w r hp hr =>
    obtain ⟨-, hclear⟩ := hinv.busy_clear (State.busy_of_some hp)
    exact absurd hclear herror
  | reset he => exact .inr (.inr ⟨_, he⟩)

/-- Settles O32: only a completion sets DONE, and only the write of CTRL sets IE. -/
theorem irqRisesOnlyByCompletionOrEnable : Obligations.IrqRisesOnlyByCompletionOrEnable := by
  intro s t hstep hlow hhigh
  cases stepResult_of_step hstep with
  | quiet => cases hlow.symm.trans hhigh
  | wroteReg req a v r he hd hr hl =>
    obtain ⟨hie, hdone⟩ := Bool.and_eq_true_iff.mp hhigh
    have hdone : s.done = true := done_of_regWrite v s.advance hdone
    have hdisabled : s.ie = false := by rwa [State.irq, hdone, Bool.and_true] at hlow
    by_cases hctrl : r = .ctrl
    · subst hctrl
      exact .inr ⟨req, _, v, he, addr_eq_of_classify_ctrl hr ▸ hd, hdone, hdisabled⟩
    · cases hdisabled.symm.trans ((regWrite_ie v s.advance hctrl).symm.trans hie)
  | wroteBuf n k v =>
    rw [s.advance.bufOnly_writeLE k v n] at hhigh
    cases hlow.symm.trans hhigh
  | completed w r hp hr =>
    obtain ⟨hpending, hdone, -⟩ := State.complete_frame hr
    exact .inl ⟨State.busy_of_some hp, State.busy_of_none hpending, hdone⟩
  | reset => cases hhigh

end Sys2Proof.Machine
end

section
/-! PROOFS. The checksum's range facts (40_checksum.md R108), what CKSUM depends on (R109), and the odd-offset example (R104). -/

namespace Sys2Proof.Machine

/-! R108. -/

theorem onesFold_le (a : Nat) : onesFold a ≤ 0xFFFF := by
  rw [onesFold]
  split <;> omega

theorem onesFold_eq_zero_iff (a : Nat) : onesFold a = 0 ↔ a = 0 := by
  rw [onesFold]
  split <;> omega

theorem onesFold_mod (a : Nat) : onesFold a % 0xFFFF = a % 0xFFFF := by
  rw [onesFold]
  split <;> omega

/-- Settles O17: the facts of the closed form, and the checksum as its complement. -/
theorem foldIsTheOnesComplementResidue : Obligations.FoldIsTheOnesComplementResidue := by
  intro a
  have hle := onesFold_le a.toNat
  have hzero : onesFold a.toNat = 0 ↔ a = 0 := by
    rw [onesFold_eq_zero_iff, BitVec.toNat_eq, BitVec.ofNat_eq_ofNat, BitVec.toNat_zero]
  have hck (c : Half) : checksumOf a = c ↔ 0xFFFF - onesFold a.toNat = c.toNat := by
    rw [BitVec.toNat_eq, checksumOf_toNat]
  rw [fold16_eq_onesFold, hck, hck, ← hzero, BitVec.toNat_ofNat, BitVec.toNat_ofNat]
  refine ⟨rfl, hle, Iff.rfl, onesFold_mod a.toNat, ?allOnes, ?zero⟩
  case allOnes => omega
  case zero => omega

/-! R109. -/

/-- Equal operands pass or fail the same check, and the insertion depends on the range outside the field only. -/
theorem State.agrees_cksum {s s' : State} (hop : s'.cksumOperands = s.cksumOperands)
    (hbytes : ∀ j, j < s.len.toNat → j ≠ s.offset.toNat → j ≠ s.offset.toNat + 1 → s'.byte j = s.byte j) :
    State.Agrees s.len.toNat (s.complete s.cksum) (s'.complete s'.cksum) := by
  cases hc : cksumCheck s.cksumOperands with
  | some e =>
    have he : s.cksum = .error e := State.cksum_of_check hc
    have hne := CommandResult.ne_noError (he ▸ s.cksum_result)
    rw [he, State.cksum_of_check (hop ▸ hc)]
    exact State.agrees_raiseError _ hne
  | none =>
    obtain ⟨hlen, hoffset⟩ := CksumOperands.mk.inj hop
    rw [State.cksum_of_pass hc, State.cksum_of_pass (hop ▸ hc), hlen, hoffset]
    exact State.agrees_insertChecksum hbytes

/-- Settles O18: the two states have the same operands, and the completions agree. -/
theorem cksumDependsOnItsRangeOnly : Obligations.CksumDependsOnItsRangeOnly := by
  intro s s' t t' hlen hoffset hbytes ht ht'
  have hop : s'.cksumOperands = s.cksumOperands := by
    simp only [State.cksumOperands, hlen, hoffset]
  cases ht
  cases ht'
  exact State.agrees_cksum hop hbytes

/-! R104. -/

theorem acc32_four (rd : Nat → Byte) : acc32 rd 4 =
    BitVec.ofNat 32 ((rd 0).toNat + 256 * (rd 1).toNat + ((rd 2).toNat + 256 * (rd 3).toNat)) := by
  simp only [acc32, sumBytes, sumWords, wordAt_eq, Nat.zero_add, Nat.reduceMod, Nat.reduceDiv, Nat.reduceMul, Nat.reduceAdd]
  rfl

/-- Settles O19: only byte 0 and byte 3 are summed, so CK is 0xFFFE; it straddles two words of the re-sum, 0xFE01 and 0x00FF. -/
theorem oddOffsetBreaksTheRoundTrip : Obligations.OddOffsetBreaksTheRoundTrip := by
  intro s hlen hoffset h0 h1 h2 h3
  have hcheck : cksumCheck s.cksumOperands = none := by
    rw [State.cksumOperands, hlen, hoffset]
    decide
  have hacc : (s.insertChecksum 4 1).acc = 1#32 := by
    rw [State.acc_insertChecksum, acc32_four]
    simp [State.byte_zeroField, h0, h3]
  have hck : (s.insertChecksum 4 1).ck = 0xFFFE#16 := by
    rw [State.ck_insertChecksum, hacc]
    decide
  have hbyte (j : Nat) : (s.insertChecksum 4 1).finish.byte j =
      if j = 1 then 0xFE#8 else if j = 2 then 0xFF#8 else s.byte j := by
    rw [State.byte_finish, State.byte_insertChecksum, hck]
    rfl
  refine ⟨(s.insertChecksum 4 1).finish, ?next, (hbyte 0).trans h0, hbyte 1, hbyte 2, (hbyte 3).trans h3, ?resum⟩
  case next =>
    rw [exec_cksum, State.cksum_of_pass hcheck, hlen, hoffset]
    rfl
  case resum =>
    have hsum : acc32 (s.insertChecksum 4 1).finish.byte 4 = 0xFF00#32 := by
      rw [acc32_four]
      simp [hbyte, h0, h3]
    rw [hsum]
    decide

end Sys2Proof.Machine
end

section
/-! PROOFS. The completion of a command (60_exceptions.md R145) and the packet as a host reads it (20_memory.md R69). -/

namespace Sys2Proof.Machine

/-! R145. -/

section
variable {s : State} {r : Except ErrCode State} (hr : CommandResult s r)
include hr

theorem State.complete_busy : (s.complete r).busy = false := by
  obtain ⟨hpending, -⟩ := State.complete_frame hr
  exact State.busy_of_none hpending

/-- A completion without an error code is a success: the error entry would have left one. -/
theorem State.complete_succeeded (hok : (s.complete r).err = .noError) : s.Succeeded (s.complete r) := by
  cases hr with
  | failed e he => exact absurd hok he
  | built u n off hu => exact State.succeeded_insertChecksum n off hu

end

/-- Settles O21: a completion is a success or the error entry; a word that is no command takes the error entry at once. -/
theorem completionUpdatesStatus : Obligations.CompletionUpdatesStatus := by
  refine ⟨fun i s hi => ?command, fun s w e hp hd => step_illegal hp hd, fun s => rfl⟩
  case command =>
    obtain ⟨r, hr, hexec⟩ := exec_command s hi
    obtain ⟨hpending, hdone, -, hovr, -⟩ := State.complete_frame hr
    exact ⟨_, hexec, State.complete_busy hr, hpending, hdone, hovr, State.errBit_eq _, State.complete_succeeded hr,
      State.complete_eq_raiseError hr⟩

/-! R69. -/

theorem busy_of_exec_command {i : Instr} {s t : State} (hi : i.isCommand = true) (ht : exec i s = .next t) :
    t.busy = false := by
  obtain ⟨r, hr, hexec⟩ := exec_command s hi
  cases hexec.symm.trans ht
  exact State.complete_busy hr

/-- A build that succeeds leaves the whole message finalized (R113). -/
theorem exec_build_finalized {i : Instr} {s t : State} (hi : i = .build4 ∨ i = .build6) (ht : exec i s = .next t)
    (hok : t.err = .noError) : t.Finalized (4 + s.len.toNat) 2 := by
  obtain ⟨-, -, hbuild⟩ := buildAssemblesHeaderAndChecksum
  obtain ⟨hrange, hsuccess⟩ := hbuild i s hi
  by_cases hlen : s.len.toNat ≤ Config.bufBytes - 4
  · obtain ⟨t', ht', -, hfinal, -⟩ := hsuccess hlen
    cases ht'.symm.trans ht
    exact hfinal
  · cases (hrange (Nat.lt_of_not_le hlen)).symm.trans ht
    cases hok

/-- An echo succeeds only where its checks pass. -/
theorem echoCheck_of_exec_echo {i : Instr} {type : Byte} {s t : State}
    (hi : (i = .echo4 ∧ type = 8) ∨ (i = .echo6 ∧ type = 128)) (ht : exec i s = .next t) (hok : t.err = .noError) :
    echoCheck s.echoOperands = none := by
  cases hc : echoCheck s.echoOperands with
  | none => rfl
  | some e =>
    have he : s.echo type = .error e := State.echo_of_check hc
    cases (exec_echo_of_check hi hc).symm.trans ht
    exact absurd hok (CommandResult.ne_noError (he ▸ s.echo_result type))

/-- An echo that succeeds leaves the message finalized, with identifier and sequence number big-endian (R114). -/
theorem exec_echo_finalized {i : Instr} {type : Byte} {s t : State}
    (hi : (i = .echo4 ∧ type = 8) ∨ (i = .echo6 ∧ type = 128)) (ht : exec i s = .next t) (hok : t.err = .noError) :
    t.Finalized s.len.toNat 2 ∧
    (t.byte 4).toNat = s.ident.toNat / 256 ∧ (t.byte 5).toNat = s.ident.toNat % 256 ∧
    (t.byte 6).toNat = s.seq.toNat / 256 ∧ (t.byte 7).toNat = s.seq.toNat % 256 := by
  obtain ⟨h8, hn, hk⟩ := echoCheck_eq_none.mp (echoCheck_of_exec_echo hi ht hok)
  obtain ⟨-, -, hecho⟩ := echoAssemblesTheEchoRequest
  obtain ⟨-, -, -, -, hsuccess⟩ := hecho i type s hi
  obtain ⟨t', ht', -, hfinal, -, -, hid1, hid0, hseq1, hseq0, -⟩ := hsuccess h8 hn hk
  cases ht'.symm.trans ht
  exact ⟨hfinal, hid1, hid0, hseq1, hseq0⟩

/-- The checksum field of a packet reads as CK, little-endian. -/
theorem State.Finalized.readLE_field {t : State} {n off : Nat} (h : t.Finalized n off) : t.readLE off 2 = t.ck.toNat := by
  simp only [t.readLE_eq_sum, Finset.sum_range_succ, Finset.sum_range_zero, Nat.add_zero, h.field_low, h.field_high]
  omega

theorem exec_rd16_field {t : State} {n : Nat} (h : t.Finalized n 2) (hb : t.busy = false) :
    exec (.rd16 0x10002#17) t = .next { t with rsp := some ⟨false, t.ck.setWidth 32⟩ } := by
  have hc : classify 2 0x10002#17 = .buf 2 := by decide
  rw [exec_rd16, busRead_buf hc hb, h.readLE_field, BitVec.ofNat_toNat]
  rfl

/-- A word of the buffer reads as its four bytes, the lowest address lowest. -/
theorem exec_rd32_idseq {t : State} (hb : t.busy = false) : ∃ v : Word,
    exec (.rd32 0x10004#17) t = .next { t with rsp := some ⟨false, v⟩ } ∧
    v.toNat = (t.byte 4).toNat + 2 ^ 8 * (t.byte 5).toNat + 2 ^ 16 * (t.byte 6).toNat + 2 ^ 24 * (t.byte 7).toNat := by
  have hc : classify 4 0x10004#17 = .buf 4 := by decide
  refine ⟨BitVec.ofNat 32 (t.readLE 4 4), by rw [exec_rd32, busRead_buf hc hb]; rfl, ?_⟩
  rw [t.toNat_ofNat_readLE 4 (by decide)]
  simp only [t.readLE_eq_sum, Finset.sum_range_succ, Finset.sum_range_zero, Nat.reduceAdd]
  omega

/-- Settles O23: a success finalizes the packet with its field at 2, and an echo's bytes 4 to 7 are big-endian. -/
theorem packetFieldsAsTheBusSeesThem : Obligations.PacketFieldsAsTheBusSeesThem := by
  have echo {i : Instr} (hi : i = .echo4 ∨ i = .echo6) :
      ∃ type : Byte, (i = .echo4 ∧ type = 8) ∨ (i = .echo6 ∧ type = 128) :=
    hi.elim (fun h => ⟨8, .inl ⟨h, rfl⟩⟩) fun h => ⟨128, .inr ⟨h, rfl⟩⟩
  intro i s t ht hok
  refine ⟨fun hi => ?checksum, fun hi => ?idseq⟩
  case checksum =>
    have hcommand : i.isCommand = true := by
      rcases hi with rfl | rfl | rfl | rfl <;> rfl
    have hbusy : t.busy = false := busy_of_exec_command hcommand ht
    rcases or_assoc.mpr hi with hbuild | hecho
    · exact exec_rd16_field (exec_build_finalized hbuild ht hok) hbusy
    · obtain ⟨type, hi⟩ := echo hecho
      exact exec_rd16_field (exec_echo_finalized hi ht hok).1 hbusy
  case idseq =>
    have hcommand : i.isCommand = true := by
      rcases hi with rfl | rfl <;> rfl
    obtain ⟨type, hi⟩ := echo hi
    obtain ⟨-, hid1, hid0, hseq1, hseq0⟩ := exec_echo_finalized hi ht hok
    obtain ⟨v, hexec, hv⟩ := exec_rd32_idseq (busy_of_exec_command hcommand ht)
    exact ⟨v, hexec, by rw [hv, hid1, hid0, hseq1, hseq0]⟩

end Sys2Proof.Machine
end

section
/-! PROOFS. The host's accesses: what BAD is (42_host_bus.md R125, R143), reads without side effect (20_memory.md R73), the pattern
registers (10_state.md R35), and the block's place in the platform's space (60_exceptions.md R153). -/

namespace Sys2Proof.Machine

/-! R143. -/

/-- The accesses that name nothing: the gap between the windows, a narrow or misaligned register access, a misaligned buffer
access. -/
theorem classify_bad {n : Nat} {a : Addr} (hn : n = 1 ∨ n = 2 ∨ n = 4)
    (h : (0x01000 ≤ a.toNat ∧ a.toNat < 0x10000) ∨ (a.toNat ≤ 0xFFF ∧ (n ≠ 4 ∨ a.toNat % 4 ≠ 0)) ∨
      (0x10000 ≤ a.toNat ∧ a.toNat % n ≠ 0)) : classify n a = .bad := by
  rw [classify, if_neg (by omega)]
  rcases h with ⟨hlow, hhigh⟩ | ⟨hreg, hnarrow⟩ | ⟨hbuf, halign⟩
  · rw [if_neg (by omega), if_neg (by omega)]
  · rw [if_pos hreg, if_pos hnarrow]
  · rw [if_neg (by omega), if_pos halign, ite_self]

section
variable {n : Nat} {a : Addr} (s : State) (hc : classify n a = .bad)
include hc

theorem busRead_bad : busRead n a s = s.busErr := by
  rw [busRead, hc]

theorem busWrite_bad (v : Word) : busWrite n a v s = s.busErr := by
  rw [busWrite, hc]

end

/-- Settles O26: each listed access names nothing, and then read and write alike are the error response. -/
theorem badTransactionsOnlyGetAnErrorResponse : Obligations.BadTransactionsOnlyGetAnErrorResponse := by
  intro s n a v hn h
  have hc : classify n a = .bad := classify_bad hn h
  rw [exec_readInstr hn, exec_writeInstr hn, busRead_bad s hc, busWrite_bad s hc v]
  exact ⟨rfl, rfl⟩

/-! R73. -/

/-- A buffer access lies in the buffer window. -/
theorem classify_buf_window {n i : Nat} {a : Addr} (h : classify n a = .buf i) : 0x10000 ≤ a.toNat := by
  by_contra hlow
  unfold classify at h
  split at h
  · cases h
  · split at h
    · split at h <;> cases h
    · rw [if_neg (by omega)] at h
      cases h

/-- A read moves the response alone, or the lock refuses it in the buffer window. -/
theorem busRead_frame (n : Nat) (a : Addr) (s : State) :
    (∃ r : Response, busRead n a s = { s with rsp := some r }) ∨
    (s.busy = true ∧ 0x10000 ≤ a.toNat ∧ busRead n a s = s.refuse) := by
  rcases busRead_cases n a s with ⟨h, -⟩ | ⟨r, h, -⟩ | ⟨i, h, hc, hb⟩ | ⟨i, h, -, -⟩
  · exact .inl ⟨_, h⟩
  · exact .inl ⟨_, h⟩
  · exact .inr ⟨hb, classify_buf_window hc, h⟩
  · exact .inl ⟨_, h⟩

/-- Settles O30: the frame of a read, at each width. -/
theorem readsHaveNoSideEffect : Obligations.ReadsHaveNoSideEffect := by
  intro i a s hi
  obtain ⟨n, hexec⟩ : ∃ n, exec i s = .next (busRead n a s) := by
    rcases hi with rfl | rfl | rfl
    · exact ⟨1, exec_rd8 a s⟩
    · exact ⟨2, exec_rd16 a s⟩
    · exact ⟨4, exec_rd32 a s⟩
  rw [hexec]
  rcases busRead_frame n a s with ⟨r, h⟩ | ⟨hb, hwindow, h⟩
  · exact ⟨r, .inl (congrArg _ h)⟩
  · exact ⟨⟨true, 0⟩, .inr ⟨hb, hwindow, congrArg _ h⟩⟩

/-! R35. -/

theorem State.patternByte_eq (s : State) {j i : Nat} (hj : j < Config.patRegs) (hi : i < 4) :
    s.patternByte (4 * j + i) = byteOf s.pat[j] i := by
  have hreg : (4 * j + i) / 4 = j := by omega
  have hbyte : (4 * j + i) % 4 = i := by omega
  rw [State.patternByte, hreg, hbyte, Vector.getElem?_eq_getElem hj, Option.getD_some]

/-- Settles O14: byte i of PAT<j> by the definition of PATTERN, and the register read at PAT<j>'s offset. -/
theorem patternBytesLieInThePatternRegisters : Obligations.PatternBytesLieInThePatternRegisters := by
  intro s j i hj hi
  refine ⟨?byte, ?read⟩
  case byte => rw [s.patternByte_eq hj hi, byteOf_toNat, Nat.pow_mul]
  case read =>
    rw [exec_rd32, busRead_reg s (classify_pat hj)]
    rfl

/-! R153. -/

/-- Settles O41: BASE is a multiple of 0x20000, and the block's addresses are the 17-bit offsets from it. -/
theorem blockAddressesLieFromBase : Obligations.BlockAddressesLieFromBase := by
  refine ⟨?aligned, fun a => ?inside, fun x hx => ?outside⟩
  case aligned => exact Nat.mod_eq_zero_of_dvd (Nat.dvd_mul_left _ Config.baseIndex)
  case inside =>
    have ha := a.isLt
    rw [blockAddress, if_pos ⟨by omega, by omega⟩, Nat.add_sub_cancel_left, BitVec.ofNat_toNat, BitVec.setWidth_eq]
  case outside => rw [blockAddress, if_neg (by omega)]

end Sys2Proof.Machine
end
